-- ==== Sys2Proof/Word.lean ====
section
/-! DEFINITION. The machine's data widths (spec/00_scope.md R7): a byte of 8 bits and a word of 16 bits. -/

namespace Sys2Proof

/-- An 8-bit quantity: a register half, a memory or port datum, an instruction byte (R7). -/
abbrev Byte := BitVec 8

/-- A 16-bit quantity: a register pair, an address of memory or of a port (R7). -/
abbrev Word := BitVec 16

end Sys2Proof
end

