-- ==== Sys2Proof/Syntax.lean ====
section
/-! DEFINITION. The instructions as data: one constructor of `Instr` for each row of spec/opcode_table.json
(spec/30_encoding.md R142 to R147), with the operands the row's fields carry. No encoding detail reaches the
machine: register codes are names here. -/

namespace Sys2Proof

/-- `r8[c]`, the 8-bit registers of R133. Code 6 names no register. -/
inductive Reg8 where
  | b | c | d | e | h | l | a
deriving DecidableEq, Repr

/-- `rp[p]`, the pairs dd and ss of R134. -/
inductive RegP where
  | bc | de | hl | sp
deriving DecidableEq, Repr

/-- `rp2[p]`, the pairs qq of R134, used by PUSH and POP. -/
inductive RegQ where
  | bc | de | hl | af
deriving DecidableEq, Repr

/-- The pairs pp of `ADD XY,pp` (R134, last paragraph): entry 2 is the index register itself. -/
inductive RegX where
  | bc | de | xy | sp
deriving DecidableEq, Repr

/-- An index register: IX after a DD prefix, IY after FD (R140). -/
inductive Index where
  | ix | iy
deriving DecidableEq, Repr

/-- A half of an index register: XYH or XYL (R35). -/
inductive Half where
  | high | low
deriving DecidableEq, Repr

/-- An 8-bit register decoded in index mode: H and L replaced by XYH and XYL (R135, R188). -/
inductive IReg8 where
  | b | c | d | e | xh | xl | a
deriving DecidableEq, Repr

/-- The condition codes of R136. -/
inductive Cond where
  | nz | z | nc | c | po | pe | p | m
deriving DecidableEq, Repr

/-- `alu[y]` of R137. -/
inductive AluOp where
  | add | adc | sub | sbc | and | xor | or | cp
deriving DecidableEq, Repr

/-- `rot[y]` of R137. -/
inductive RotOp where
  | rlc | rrc | rl | rr | sla | sra | sll | srl
deriving DecidableEq, Repr

/-- The instructions: one constructor for each row of spec/opcode_table.json, in the table's order. A `Byte` operand
named e or d is a signed displacement (R138); `b` is a bit number, `t` a restart number, `y`, `z` a field whose value
selects nothing (the undocumented aliases), `o` the second byte of an ED no-operation. -/
inductive Instr where
  /-- `NOP` (R305). -/
  | nop
  /-- `EX AF,AF'` (R221). -/
  | exAfAf2
  /-- `DJNZ e` (R431). -/
  | djnz (e : Byte)
  /-- `JR e` (R424). -/
  | jr (e : Byte)
  /-- `JR NZ,e` (R425). -/
  | jrNz (e : Byte)
  /-- `JR Z,e` (R426). -/
  | jrZ (e : Byte)
  /-- `JR NC,e` (R427). -/
  | jrNc (e : Byte)
  /-- `JR C,e` (R428). -/
  | jrC (e : Byte)
  /-- `LD dd,nn` (R200). -/
  | ldDdNn (dd : RegP) (nn : Word)
  /-- `ADD HL,ss` (R330). -/
  | addHlSs (ss : RegP)
  /-- `LD (BC),A` (R181). -/
  | ldIndBcA
  /-- `LD (DE),A` (R182). -/
  | ldIndDeA
  /-- `LD (nn),HL` (R205). -/
  | ldIndNnHl (nn : Word)
  /-- `LD (nn),A` (R183). -/
  | ldIndNnA (nn : Word)
  /-- `LD A,(BC)` (R178). -/
  | ldAIndBc
  /-- `LD A,(DE)` (R179). -/
  | ldAIndDe
  /-- `LD HL,(nn)` (R202). -/
  | ldHlIndNn (nn : Word)
  /-- `LD A,(nn)` (R180). -/
  | ldAIndNn (nn : Word)
  /-- `INC ss` (R334). -/
  | incSs (ss : RegP)
  /-- `DEC ss` (R336). -/
  | decSs (ss : RegP)
  /-- `INC r` (R281). -/
  | incR (r : Reg8)
  /-- `INC (HL)` (R282). -/
  | incIndHl
  /-- `DEC r` (R285). -/
  | decR (r : Reg8)
  /-- `DEC (HL)` (R286). -/
  | decIndHl
  /-- `LD r,n` (R171). -/
  | ldRN (r : Reg8) (n : Byte)
  /-- `LD (HL),n` (R176). -/
  | ldIndHlN (n : Byte)
  /-- `RLCA` (R351). -/
  | rlca
  /-- `RRCA` (R353). -/
  | rrca
  /-- `RLA` (R352). -/
  | rla
  /-- `RRA` (R354). -/
  | rra
  /-- `DAA` (R300). -/
  | daa
  /-- `CPL` (R301). -/
  | cpl
  /-- `SCF` (R304). -/
  | scf
  /-- `CCF` (R303). -/
  | ccf
  /-- `LD r,r'` (R170). -/
  | ldRR (r : Reg8) (r' : Reg8)
  /-- `LD r,(HL)` (R172). -/
  | ldRIndHl (r : Reg8)
  /-- `LD (HL),r` (R174). -/
  | ldIndHlR (r : Reg8)
  /-- `HALT` (R306). -/
  | halt
  /-- `ADD A,r` (R241). -/
  | addAR (r : Reg8)
  /-- `ADD A,(HL)` (R243). -/
  | addAIndHl
  /-- `ADD A,n` (R242). -/
  | addAN (n : Byte)
  /-- `ADC A,r` (R246). -/
  | adcAR (r : Reg8)
  /-- `ADC A,(HL)` (R248). -/
  | adcAIndHl
  /-- `ADC A,n` (R247). -/
  | adcAN (n : Byte)
  /-- `SUB r` (R251). -/
  | subR (r : Reg8)
  /-- `SUB (HL)` (R253). -/
  | subIndHl
  /-- `SUB n` (R252). -/
  | subN (n : Byte)
  /-- `SBC A,r` (R256). -/
  | sbcAR (r : Reg8)
  /-- `SBC A,(HL)` (R258). -/
  | sbcAIndHl
  /-- `SBC A,n` (R257). -/
  | sbcAN (n : Byte)
  /-- `AND r` (R261). -/
  | andR (r : Reg8)
  /-- `AND (HL)` (R263). -/
  | andIndHl
  /-- `AND n` (R262). -/
  | andN (n : Byte)
  /-- `XOR r` (R266). -/
  | xorR (r : Reg8)
  /-- `XOR (HL)` (R268). -/
  | xorIndHl
  /-- `XOR n` (R267). -/
  | xorN (n : Byte)
  /-- `OR r` (R271). -/
  | orR (r : Reg8)
  /-- `OR (HL)` (R273). -/
  | orIndHl
  /-- `OR n` (R272). -/
  | orN (n : Byte)
  /-- `CP r` (R276). -/
  | cpR (r : Reg8)
  /-- `CP (HL)` (R278). -/
  | cpIndHl
  /-- `CP n` (R277). -/
  | cpN (n : Byte)
  /-- `RET cc` (R435). -/
  | retCc (cc : Cond)
  /-- `POP qq` (R212). -/
  | popQq (qq : RegQ)
  /-- `RET` (R434). -/
  | ret
  /-- `EXX` (R222). -/
  | exx
  /-- `JP (HL)` (R429). -/
  | jpHl
  /-- `LD SP,HL` (R208). -/
  | ldSpHl
  /-- `JP cc,nn` (R423). -/
  | jpCcNn (cc : Cond) (nn : Word)
  /-- `JP nn` (R422). -/
  | jpNn (nn : Word)
  /-- `OUT (n),A` (R457). -/
  | outNA (n : Byte)
  /-- `IN A,(n)` (R450). -/
  | inAN (n : Byte)
  /-- `EX (SP),HL` (R223). -/
  | exSpHl
  /-- `EX DE,HL` (R220). -/
  | exDeHl
  /-- `DI` (R307). -/
  | di
  /-- `EI` (R308). -/
  | ei
  /-- `CALL cc,nn` (R433). -/
  | callCcNn (cc : Cond) (nn : Word)
  /-- `PUSH qq` (R210). -/
  | pushQq (qq : RegQ)
  /-- `CALL nn` (R432). -/
  | callNn (nn : Word)
  /-- `RST p` (R438). -/
  | rst (t : Fin 8)
  /-- `PREFIX IX (DD)` (R313). -/
  | prefixIx
  /-- `PREFIX IY (FD)` (R313). -/
  | prefixIy
  /-- `RLC r` (R355). -/
  | rlcR (r : Reg8)
  /-- `RLC (HL)` (R356). -/
  | rlcIndHl
  /-- `RRC r` (R359). -/
  | rrcR (r : Reg8)
  /-- `RRC (HL)` (R360). -/
  | rrcIndHl
  /-- `RL r` (R363). -/
  | rlR (r : Reg8)
  /-- `RL (HL)` (R364). -/
  | rlIndHl
  /-- `RR r` (R367). -/
  | rrR (r : Reg8)
  /-- `RR (HL)` (R368). -/
  | rrIndHl
  /-- `SLA r` (R371). -/
  | slaR (r : Reg8)
  /-- `SLA (HL)` (R372). -/
  | slaIndHl
  /-- `SRA r` (R375). -/
  | sraR (r : Reg8)
  /-- `SRA (HL)` (R376). -/
  | sraIndHl
  /-- `SLL r` (R379). -/
  | sllR (r : Reg8)
  /-- `SLL (HL)` (R380). -/
  | sllIndHl
  /-- `SRL r` (R383). -/
  | srlR (r : Reg8)
  /-- `SRL (HL)` (R384). -/
  | srlIndHl
  /-- `BIT b,r` (R400). -/
  | bitBR (b : Fin 8) (r : Reg8)
  /-- `BIT b,(HL)` (R401). -/
  | bitBIndHl (b : Fin 8)
  /-- `RES b,r` (R407). -/
  | resBR (b : Fin 8) (r : Reg8)
  /-- `RES b,(HL)` (R408). -/
  | resBIndHl (b : Fin 8)
  /-- `SET b,r` (R403). -/
  | setBR (b : Fin 8) (r : Reg8)
  /-- `SET b,(HL)` (R404). -/
  | setBIndHl (b : Fin 8)
  /-- `IN r,(C)` (R451). -/
  | inRC (r : Reg8)
  /-- `IN (C)` (R452). -/
  | inC
  /-- `OUT (C),r` (R458). -/
  | outCR (r : Reg8)
  /-- `OUT (C),0` (R459). -/
  | outC0
  /-- `SBC HL,ss` (R332). -/
  | sbcHlSs (ss : RegP)
  /-- `ADC HL,ss` (R331). -/
  | adcHlSs (ss : RegP)
  /-- `LD (nn),dd` (R206). -/
  | ldIndNnDd (nn : Word) (dd : RegP)
  /-- `LD dd,(nn)` (R203). -/
  | ldDdIndNn (dd : RegP) (nn : Word)
  /-- `NEG` (R302). -/
  | neg
  /-- `NEG (alias)` (R302). -/
  | negAlias (y : Fin 8)
  /-- `RETN` (R437). -/
  | retn
  /-- `RETI` (R436). -/
  | reti
  /-- `RETN (alias)` (R437). -/
  | retnAlias (y : Fin 8)
  /-- `IM 0` (R309). -/
  | im0
  /-- `IM 0 (alias)` (R309). -/
  | im0Alias (y : Fin 8)
  /-- `IM 1` (R310). -/
  | im1
  /-- `IM 1 (alias)` (R310). -/
  | im1Alias
  /-- `IM 2` (R311). -/
  | im2
  /-- `IM 2 (alias)` (R311). -/
  | im2Alias
  /-- `LD I,A` (R186). -/
  | ldIA
  /-- `LD R,A` (R187). -/
  | ldRefA
  /-- `LD A,I` (R184). -/
  | ldAI
  /-- `LD A,R` (R185). -/
  | ldARef
  /-- `RRD` (R388). -/
  | rrd
  /-- `RLD` (R387). -/
  | rld
  /-- `LDI` (R225). -/
  | ldi
  /-- `CPI` (R229). -/
  | cpi
  /-- `INI` (R453). -/
  | ini
  /-- `OUTI` (R460). -/
  | outi
  /-- `LDD` (R227). -/
  | ldd
  /-- `CPD` (R231). -/
  | cpd
  /-- `IND` (R455). -/
  | ind
  /-- `OUTD` (R462). -/
  | outd
  /-- `LDIR` (R226). -/
  | ldir
  /-- `CPIR` (R230). -/
  | cpir
  /-- `INIR` (R454). -/
  | inir
  /-- `OTIR` (R461). -/
  | otir
  /-- `LDDR` (R228). -/
  | lddr
  /-- `CPDR` (R232). -/
  | cpdr
  /-- `INDR` (R456). -/
  | indr
  /-- `OTDR` (R463). -/
  | otdr
  /-- `ED-NOP` (R312). -/
  | edNop (o : Byte)
  /-- `LD XY,nn` (R201). -/
  | ldXyNn (x : Index) (nn : Word)
  /-- `ADD XY,pp` (R333). -/
  | addXyPp (x : Index) (pp : RegX)
  /-- `LD (nn),XY` (R207). -/
  | ldIndNnXy (x : Index) (nn : Word)
  /-- `LD XY,(nn)` (R204). -/
  | ldXyIndNn (x : Index) (nn : Word)
  /-- `INC XY` (R335). -/
  | incXy (x : Index)
  /-- `DEC XY` (R337). -/
  | decXy (x : Index)
  /-- `INC XYh/XYl` (R284). -/
  | incXyHalf (x : Index) (k : Half)
  /-- `DEC XYh/XYl` (R288). -/
  | decXyHalf (x : Index) (k : Half)
  /-- `LD XYh/XYl,n` (R189). -/
  | ldXyHalfN (x : Index) (k : Half) (n : Byte)
  /-- `INC (XY+d)` (R283). -/
  | incIndXy (x : Index) (d : Byte)
  /-- `DEC (XY+d)` (R287). -/
  | decIndXy (x : Index) (d : Byte)
  /-- `LD (XY+d),n` (R177). -/
  | ldIndXyN (x : Index) (d : Byte) (n : Byte)
  /-- `LD p,p'` (R188). -/
  | ldPP (x : Index) (p : IReg8) (p' : IReg8)
  /-- `LD r,(XY+d)` (R173). -/
  | ldRIndXy (x : Index) (r : Reg8) (d : Byte)
  /-- `LD (XY+d),r` (R175). -/
  | ldIndXyR (x : Index) (d : Byte) (r : Reg8)
  /-- `ADD A,XYh/XYl` (R245). -/
  | addAXyHalf (x : Index) (k : Half)
  /-- `ADD A,(XY+d)` (R244). -/
  | addAIndXy (x : Index) (d : Byte)
  /-- `ADC A,XYh/XYl` (R250). -/
  | adcAXyHalf (x : Index) (k : Half)
  /-- `ADC A,(XY+d)` (R249). -/
  | adcAIndXy (x : Index) (d : Byte)
  /-- `SUB XYh/XYl` (R255). -/
  | subXyHalf (x : Index) (k : Half)
  /-- `SUB (XY+d)` (R254). -/
  | subIndXy (x : Index) (d : Byte)
  /-- `SBC A,XYh/XYl` (R260). -/
  | sbcAXyHalf (x : Index) (k : Half)
  /-- `SBC A,(XY+d)` (R259). -/
  | sbcAIndXy (x : Index) (d : Byte)
  /-- `AND XYh/XYl` (R265). -/
  | andXyHalf (x : Index) (k : Half)
  /-- `AND (XY+d)` (R264). -/
  | andIndXy (x : Index) (d : Byte)
  /-- `XOR XYh/XYl` (R270). -/
  | xorXyHalf (x : Index) (k : Half)
  /-- `XOR (XY+d)` (R269). -/
  | xorIndXy (x : Index) (d : Byte)
  /-- `OR XYh/XYl` (R275). -/
  | orXyHalf (x : Index) (k : Half)
  /-- `OR (XY+d)` (R274). -/
  | orIndXy (x : Index) (d : Byte)
  /-- `CP XYh/XYl` (R280). -/
  | cpXyHalf (x : Index) (k : Half)
  /-- `CP (XY+d)` (R279). -/
  | cpIndXy (x : Index) (d : Byte)
  /-- `POP XY` (R213). -/
  | popXy (x : Index)
  /-- `JP (XY)` (R430). -/
  | jpXy (x : Index)
  /-- `LD SP,XY` (R209). -/
  | ldSpXy (x : Index)
  /-- `EX (SP),XY` (R224). -/
  | exSpXy (x : Index)
  /-- `PUSH XY` (R211). -/
  | pushXy (x : Index)
  /-- `RLC (XY+d)` (R357). -/
  | rlcIndXy (x : Index) (d : Byte)
  /-- `RLC (XY+d),r` (R358). -/
  | rlcIndXyR (x : Index) (d : Byte) (r : Reg8)
  /-- `RRC (XY+d)` (R361). -/
  | rrcIndXy (x : Index) (d : Byte)
  /-- `RRC (XY+d),r` (R362). -/
  | rrcIndXyR (x : Index) (d : Byte) (r : Reg8)
  /-- `RL (XY+d)` (R365). -/
  | rlIndXy (x : Index) (d : Byte)
  /-- `RL (XY+d),r` (R366). -/
  | rlIndXyR (x : Index) (d : Byte) (r : Reg8)
  /-- `RR (XY+d)` (R369). -/
  | rrIndXy (x : Index) (d : Byte)
  /-- `RR (XY+d),r` (R370). -/
  | rrIndXyR (x : Index) (d : Byte) (r : Reg8)
  /-- `SLA (XY+d)` (R373). -/
  | slaIndXy (x : Index) (d : Byte)
  /-- `SLA (XY+d),r` (R374). -/
  | slaIndXyR (x : Index) (d : Byte) (r : Reg8)
  /-- `SRA (XY+d)` (R377). -/
  | sraIndXy (x : Index) (d : Byte)
  /-- `SRA (XY+d),r` (R378). -/
  | sraIndXyR (x : Index) (d : Byte) (r : Reg8)
  /-- `SLL (XY+d)` (R381). -/
  | sllIndXy (x : Index) (d : Byte)
  /-- `SLL (XY+d),r` (R382). -/
  | sllIndXyR (x : Index) (d : Byte) (r : Reg8)
  /-- `SRL (XY+d)` (R385). -/
  | srlIndXy (x : Index) (d : Byte)
  /-- `SRL (XY+d),r` (R386). -/
  | srlIndXyR (x : Index) (d : Byte) (r : Reg8)
  /-- `BIT b,(XY+d)` (R402). -/
  | bitBIndXy (x : Index) (d : Byte) (b : Fin 8)
  /-- `BIT b,(XY+d) (alias)` (R402). -/
  | bitBIndXyAlias (x : Index) (d : Byte) (b : Fin 8) (z : Fin 8)
  /-- `RES b,(XY+d)` (R409). -/
  | resBIndXy (x : Index) (d : Byte) (b : Fin 8)
  /-- `RES b,(XY+d),r` (R410). -/
  | resBIndXyR (x : Index) (d : Byte) (b : Fin 8) (r : Reg8)
  /-- `SET b,(XY+d)` (R405). -/
  | setBIndXy (x : Index) (d : Byte) (b : Fin 8)
  /-- `SET b,(XY+d),r` (R406). -/
  | setBIndXyR (x : Index) (d : Byte) (b : Fin 8) (r : Reg8)
  /-- An opcode the XY table does not list, decoded after a DD or FD prefix: the base table's instruction `i`,
  with H, L and HL unchanged in meaning (R141). -/
  | unaffected (x : Index) (i : Instr)
deriving DecidableEq, Repr

end Sys2Proof
end

