-- ==== Sys2Proof/WellFormed.lean ====
section
/-! DEFINITION. Which terms of `Instr` stand for an encoding: the conditions under which an instruction is the one its
row of spec/opcode_table.json lists (the `values` and `joint_values` of its fields). -/

namespace Sys2Proof

/-- H or L: the registers index mode replaces (R135). -/
def Reg8.isHL : Reg8 → Bool
  | .h => true
  | .l => true
  | .b => false
  | .c => false
  | .d => false
  | .e => false
  | .a => false

/-- XYH or XYL (R188). -/
def IReg8.isHalf : IReg8 → Bool
  | .xh => true
  | .xl => true
  | .b => false
  | .c => false
  | .d => false
  | .e => false
  | .a => false

/-- The 178 second bytes after ED that name no instruction (R312). -/
def isEdNop (o : Byte) : Bool :=
  let n := o.toNat
  n < 0x40 || n == 0x77 || n == 0x7F || (0x80 ≤ n && n < 0xA0) || (0xA4 ≤ n && n < 0xA8) || (0xAC ≤ n && n < 0xB0)
    || (0xB4 ≤ n && n < 0xB8) || (0xBC ≤ n && n < 0xC0) || 0xC0 ≤ n

/-- Whether an instruction of the base or the ED table, or a prefix byte, is left unchanged by index mode: it has no
HL, H, L or (HL) operand that R135 replaces, and it is not a CB instruction (R141). -/
def Instr.fallsThrough : Instr → Bool
  | .nop => true
  | .exAfAf2 => true
  | .djnz _ => true
  | .jr _ => true
  | .jrNz _ => true
  | .jrZ _ => true
  | .jrNc _ => true
  | .jrC _ => true
  | .ldDdNn dd _ => dd != .hl
  | .addHlSs _ => false
  | .ldIndBcA => true
  | .ldIndDeA => true
  | .ldIndNnHl _ => false
  | .ldIndNnA _ => true
  | .ldAIndBc => true
  | .ldAIndDe => true
  | .ldHlIndNn _ => false
  | .ldAIndNn _ => true
  | .incSs ss => ss != .hl
  | .decSs ss => ss != .hl
  | .incR r => !r.isHL
  | .incIndHl => false
  | .decR r => !r.isHL
  | .decIndHl => false
  | .ldRN r _ => !r.isHL
  | .ldIndHlN _ => false
  | .rlca => true
  | .rrca => true
  | .rla => true
  | .rra => true
  | .daa => true
  | .cpl => true
  | .scf => true
  | .ccf => true
  | .ldRR r r' => !r.isHL && !r'.isHL
  | .ldRIndHl _ => false
  | .ldIndHlR _ => false
  | .halt => true
  | .addAR r => !r.isHL
  | .addAIndHl => false
  | .addAN _ => true
  | .adcAR r => !r.isHL
  | .adcAIndHl => false
  | .adcAN _ => true
  | .subR r => !r.isHL
  | .subIndHl => false
  | .subN _ => true
  | .sbcAR r => !r.isHL
  | .sbcAIndHl => false
  | .sbcAN _ => true
  | .andR r => !r.isHL
  | .andIndHl => false
  | .andN _ => true
  | .xorR r => !r.isHL
  | .xorIndHl => false
  | .xorN _ => true
  | .orR r => !r.isHL
  | .orIndHl => false
  | .orN _ => true
  | .cpR r => !r.isHL
  | .cpIndHl => false
  | .cpN _ => true
  | .retCc _ => true
  | .popQq qq => qq != .hl
  | .ret => true
  | .exx => true
  | .jpHl => false
  | .ldSpHl => false
  | .jpCcNn _ _ => true
  | .jpNn _ => true
  | .outNA _ => true
  | .inAN _ => true
  | .exSpHl => false
  | .exDeHl => true
  | .di => true
  | .ei => true
  | .callCcNn _ _ => true
  | .pushQq qq => qq != .hl
  | .callNn _ => true
  | .rst _ => true
  | .prefixIx => true
  | .prefixIy => true
  | .rlcR _ => false
  | .rlcIndHl => false
  | .rrcR _ => false
  | .rrcIndHl => false
  | .rlR _ => false
  | .rlIndHl => false
  | .rrR _ => false
  | .rrIndHl => false
  | .slaR _ => false
  | .slaIndHl => false
  | .sraR _ => false
  | .sraIndHl => false
  | .sllR _ => false
  | .sllIndHl => false
  | .srlR _ => false
  | .srlIndHl => false
  | .bitBR _ _ => false
  | .bitBIndHl _ => false
  | .resBR _ _ => false
  | .resBIndHl _ => false
  | .setBR _ _ => false
  | .setBIndHl _ => false
  | .inRC _ => true
  | .inC => true
  | .outCR _ => true
  | .outC0 => true
  | .sbcHlSs _ => true
  | .adcHlSs _ => true
  | .ldIndNnDd _ _ => true
  | .ldDdIndNn _ _ => true
  | .neg => true
  | .negAlias _ => true
  | .retn => true
  | .reti => true
  | .retnAlias _ => true
  | .im0 => true
  | .im0Alias _ => true
  | .im1 => true
  | .im1Alias => true
  | .im2 => true
  | .im2Alias => true
  | .ldIA => true
  | .ldRefA => true
  | .ldAI => true
  | .ldARef => true
  | .rrd => true
  | .rld => true
  | .ldi => true
  | .cpi => true
  | .ini => true
  | .outi => true
  | .ldd => true
  | .cpd => true
  | .ind => true
  | .outd => true
  | .ldir => true
  | .cpir => true
  | .inir => true
  | .otir => true
  | .lddr => true
  | .cpdr => true
  | .indr => true
  | .otdr => true
  | .edNop _ => true
  | .ldXyNn _ _ => false
  | .addXyPp _ _ => false
  | .ldIndNnXy _ _ => false
  | .ldXyIndNn _ _ => false
  | .incXy _ => false
  | .decXy _ => false
  | .incXyHalf _ _ => false
  | .decXyHalf _ _ => false
  | .ldXyHalfN _ _ _ => false
  | .incIndXy _ _ => false
  | .decIndXy _ _ => false
  | .ldIndXyN _ _ _ => false
  | .ldPP _ _ _ => false
  | .ldRIndXy _ _ _ => false
  | .ldIndXyR _ _ _ => false
  | .addAXyHalf _ _ => false
  | .addAIndXy _ _ => false
  | .adcAXyHalf _ _ => false
  | .adcAIndXy _ _ => false
  | .subXyHalf _ _ => false
  | .subIndXy _ _ => false
  | .sbcAXyHalf _ _ => false
  | .sbcAIndXy _ _ => false
  | .andXyHalf _ _ => false
  | .andIndXy _ _ => false
  | .xorXyHalf _ _ => false
  | .xorIndXy _ _ => false
  | .orXyHalf _ _ => false
  | .orIndXy _ _ => false
  | .cpXyHalf _ _ => false
  | .cpIndXy _ _ => false
  | .popXy _ => false
  | .jpXy _ => false
  | .ldSpXy _ => false
  | .exSpXy _ => false
  | .pushXy _ => false
  | .rlcIndXy _ _ => false
  | .rlcIndXyR _ _ _ => false
  | .rrcIndXy _ _ => false
  | .rrcIndXyR _ _ _ => false
  | .rlIndXy _ _ => false
  | .rlIndXyR _ _ _ => false
  | .rrIndXy _ _ => false
  | .rrIndXyR _ _ _ => false
  | .slaIndXy _ _ => false
  | .slaIndXyR _ _ _ => false
  | .sraIndXy _ _ => false
  | .sraIndXyR _ _ _ => false
  | .sllIndXy _ _ => false
  | .sllIndXyR _ _ _ => false
  | .srlIndXy _ _ => false
  | .srlIndXyR _ _ _ => false
  | .bitBIndXy _ _ _ => false
  | .bitBIndXyAlias _ _ _ _ => false
  | .resBIndXy _ _ _ => false
  | .resBIndXyR _ _ _ _ => false
  | .setBIndXy _ _ _ => false
  | .setBIndXyR _ _ _ _ => false
  | .unaffected _ _ => false

/-- An instruction that some bytes encode: each row's own condition on its fields. -/
def Instr.wf : Instr → Bool
  | .nop => true
  | .exAfAf2 => true
  | .djnz _ => true
  | .jr _ => true
  | .jrNz _ => true
  | .jrZ _ => true
  | .jrNc _ => true
  | .jrC _ => true
  | .ldDdNn _ _ => true
  | .addHlSs _ => true
  | .ldIndBcA => true
  | .ldIndDeA => true
  | .ldIndNnHl _ => true
  | .ldIndNnA _ => true
  | .ldAIndBc => true
  | .ldAIndDe => true
  | .ldHlIndNn _ => true
  | .ldAIndNn _ => true
  | .incSs _ => true
  | .decSs _ => true
  | .incR _ => true
  | .incIndHl => true
  | .decR _ => true
  | .decIndHl => true
  | .ldRN _ _ => true
  | .ldIndHlN _ => true
  | .rlca => true
  | .rrca => true
  | .rla => true
  | .rra => true
  | .daa => true
  | .cpl => true
  | .scf => true
  | .ccf => true
  | .ldRR _ _ => true
  | .ldRIndHl _ => true
  | .ldIndHlR _ => true
  | .halt => true
  | .addAR _ => true
  | .addAIndHl => true
  | .addAN _ => true
  | .adcAR _ => true
  | .adcAIndHl => true
  | .adcAN _ => true
  | .subR _ => true
  | .subIndHl => true
  | .subN _ => true
  | .sbcAR _ => true
  | .sbcAIndHl => true
  | .sbcAN _ => true
  | .andR _ => true
  | .andIndHl => true
  | .andN _ => true
  | .xorR _ => true
  | .xorIndHl => true
  | .xorN _ => true
  | .orR _ => true
  | .orIndHl => true
  | .orN _ => true
  | .cpR _ => true
  | .cpIndHl => true
  | .cpN _ => true
  | .retCc _ => true
  | .popQq _ => true
  | .ret => true
  | .exx => true
  | .jpHl => true
  | .ldSpHl => true
  | .jpCcNn _ _ => true
  | .jpNn _ => true
  | .outNA _ => true
  | .inAN _ => true
  | .exSpHl => true
  | .exDeHl => true
  | .di => true
  | .ei => true
  | .callCcNn _ _ => true
  | .pushQq _ => true
  | .callNn _ => true
  | .rst _ => true
  | .prefixIx => true
  | .prefixIy => true
  | .rlcR _ => true
  | .rlcIndHl => true
  | .rrcR _ => true
  | .rrcIndHl => true
  | .rlR _ => true
  | .rlIndHl => true
  | .rrR _ => true
  | .rrIndHl => true
  | .slaR _ => true
  | .slaIndHl => true
  | .sraR _ => true
  | .sraIndHl => true
  | .sllR _ => true
  | .sllIndHl => true
  | .srlR _ => true
  | .srlIndHl => true
  | .bitBR _ _ => true
  | .bitBIndHl _ => true
  | .resBR _ _ => true
  | .resBIndHl _ => true
  | .setBR _ _ => true
  | .setBIndHl _ => true
  | .inRC _ => true
  | .inC => true
  | .outCR _ => true
  | .outC0 => true
  | .sbcHlSs _ => true
  | .adcHlSs _ => true
  | .ldIndNnDd _ _ => true
  | .ldDdIndNn _ _ => true
  | .neg => true
  | .negAlias y => y != 0
  | .retn => true
  | .reti => true
  | .retnAlias y => y != 0 && y != 1
  | .im0 => true
  | .im0Alias y => y == 1 || y == 4 || y == 5
  | .im1 => true
  | .im1Alias => true
  | .im2 => true
  | .im2Alias => true
  | .ldIA => true
  | .ldRefA => true
  | .ldAI => true
  | .ldARef => true
  | .rrd => true
  | .rld => true
  | .ldi => true
  | .cpi => true
  | .ini => true
  | .outi => true
  | .ldd => true
  | .cpd => true
  | .ind => true
  | .outd => true
  | .ldir => true
  | .cpir => true
  | .inir => true
  | .otir => true
  | .lddr => true
  | .cpdr => true
  | .indr => true
  | .otdr => true
  | .edNop o => isEdNop o
  | .ldXyNn _ _ => true
  | .addXyPp _ _ => true
  | .ldIndNnXy _ _ => true
  | .ldXyIndNn _ _ => true
  | .incXy _ => true
  | .decXy _ => true
  | .incXyHalf _ _ => true
  | .decXyHalf _ _ => true
  | .ldXyHalfN _ _ _ => true
  | .incIndXy _ _ => true
  | .decIndXy _ _ => true
  | .ldIndXyN _ _ _ => true
  | .ldPP _ p p' => p.isHalf || p'.isHalf
  | .ldRIndXy _ _ _ => true
  | .ldIndXyR _ _ _ => true
  | .addAXyHalf _ _ => true
  | .addAIndXy _ _ => true
  | .adcAXyHalf _ _ => true
  | .adcAIndXy _ _ => true
  | .subXyHalf _ _ => true
  | .subIndXy _ _ => true
  | .sbcAXyHalf _ _ => true
  | .sbcAIndXy _ _ => true
  | .andXyHalf _ _ => true
  | .andIndXy _ _ => true
  | .xorXyHalf _ _ => true
  | .xorIndXy _ _ => true
  | .orXyHalf _ _ => true
  | .orIndXy _ _ => true
  | .cpXyHalf _ _ => true
  | .cpIndXy _ _ => true
  | .popXy _ => true
  | .jpXy _ => true
  | .ldSpXy _ => true
  | .exSpXy _ => true
  | .pushXy _ => true
  | .rlcIndXy _ _ => true
  | .rlcIndXyR _ _ _ => true
  | .rrcIndXy _ _ => true
  | .rrcIndXyR _ _ _ => true
  | .rlIndXy _ _ => true
  | .rlIndXyR _ _ _ => true
  | .rrIndXy _ _ => true
  | .rrIndXyR _ _ _ => true
  | .slaIndXy _ _ => true
  | .slaIndXyR _ _ _ => true
  | .sraIndXy _ _ => true
  | .sraIndXyR _ _ _ => true
  | .sllIndXy _ _ => true
  | .sllIndXyR _ _ _ => true
  | .srlIndXy _ _ => true
  | .srlIndXyR _ _ _ => true
  | .bitBIndXy _ _ _ => true
  | .bitBIndXyAlias _ _ _ z => z != 6
  | .resBIndXy _ _ _ => true
  | .resBIndXyR _ _ _ _ => true
  | .setBIndXy _ _ _ => true
  | .setBIndXyR _ _ _ _ => true
  | .unaffected _ i => i.fallsThrough && i.wf

end Sys2Proof
end

