-- ==== Sys2Proof/Decode.lean ====
section
/-! DEFINITION. Instruction words: the fields of an opcode byte, the codes of registers and conditions, the decoder
(total on any bytes; a list that ends too early is rejected by name) and the encoder, written from the tables of
spec/30_encoding.md. -/

namespace Sys2Proof

/-- `hi ++ lo` of R9: a word from its two bytes. -/
def wordOf (hi lo : Byte) : Word := hi ++ lo

/-- Bits 15:8 of a word (R30). -/
def hiByte (w : Word) : Byte := w.extractLsb' 8 8

/-- Bits 7:0 of a word (R30). -/
def loByte (w : Word) : Byte := w.extractLsb' 0 8

/-- The displacement `s8(b)` of R10 as a 16-bit value: b sign-extended (R138). -/
def sext (b : Byte) : Word := b.signExtend 16

/-- Field x of an opcode byte: bits 7:6 (R132). -/
def opX (o : Byte) : Fin 4 := ⟨o.toNat / 64, by have := o.isLt; omega⟩

/-- Field y of an opcode byte: bits 5:3 (R132). -/
def opY (o : Byte) : Fin 8 := ⟨o.toNat / 8 % 8, by omega⟩

/-- Field z of an opcode byte: bits 2:0 (R132). -/
def opZ (o : Byte) : Fin 8 := ⟨o.toNat % 8, by omega⟩

/-- The opcode byte with fields x, y, z (R132). -/
def opOf (x : Fin 4) (y z : Fin 8) : Byte := BitVec.ofNat 8 (x.val * 64 + y.val * 8 + z.val)

/-- Field p, bits 5:4 of the opcode byte: `y[2:1]` (R132). -/
def pOf (y : Fin 8) : Fin 4 := ⟨y.val / 2, by omega⟩

/-- Field q, bit 3 of the opcode byte: `y[0]` (R132). -/
def qOf (y : Fin 8) : Fin 2 := ⟨y.val % 2, by omega⟩

/-- Field y from p and q (R132). -/
def yOf (p : Fin 4) (q : Fin 2) : Fin 8 := ⟨p.val * 2 + q.val, by omega⟩

/-- The code of an 8-bit register (R133). -/
def Reg8.code : Reg8 → Fin 8
  | .b => 0
  | .c => 1
  | .d => 2
  | .e => 3
  | .h => 4
  | .l => 5
  | .a => 7

/-- `r8[c]`; code 6 is not a register (R133). -/
def Reg8.ofCode : Fin 8 → Option Reg8
  | 0 => some .b
  | 1 => some .c
  | 2 => some .d
  | 3 => some .e
  | 4 => some .h
  | 5 => some .l
  | 6 => none
  | 7 => some .a

/-- The code of a pair dd or ss (R134). -/
def RegP.code : RegP → Fin 4
  | .bc => 0
  | .de => 1
  | .hl => 2
  | .sp => 3

/-- `rp[p]` (R134). -/
def RegP.ofCode : Fin 4 → RegP
  | 0 => .bc
  | 1 => .de
  | 2 => .hl
  | 3 => .sp

/-- The code of a pair qq (R134). -/
def RegQ.code : RegQ → Fin 4
  | .bc => 0
  | .de => 1
  | .hl => 2
  | .af => 3

/-- `rp2[p]` (R134). -/
def RegQ.ofCode : Fin 4 → RegQ
  | 0 => .bc
  | 1 => .de
  | 2 => .hl
  | 3 => .af

/-- The code of a pair pp (R134, R333). -/
def RegX.code : RegX → Fin 4
  | .bc => 0
  | .de => 1
  | .xy => 2
  | .sp => 3

/-- The pair pp with a code (R134, R333). -/
def RegX.ofCode : Fin 4 → RegX
  | 0 => .bc
  | 1 => .de
  | 2 => .xy
  | 3 => .sp

/-- The code of a half of an index register: 4 is XYH, 5 is XYL (R135). -/
def Half.code : Half → Fin 8
  | .high => 4
  | .low => 5

/-- The half a register code names in index mode (R135). -/
def Half.ofCode : Fin 8 → Option Half
  | 4 => some .high
  | 5 => some .low
  | 0 => none
  | 1 => none
  | 2 => none
  | 3 => none
  | 6 => none
  | 7 => none

/-- The code of an 8-bit register in index mode (R135). -/
def IReg8.code : IReg8 → Fin 8
  | .b => 0
  | .c => 1
  | .d => 2
  | .e => 3
  | .xh => 4
  | .xl => 5
  | .a => 7

/-- `r8[c]` in index mode, with codes 4 and 5 the halves of the index register (R135). -/
def IReg8.ofCode : Fin 8 → Option IReg8
  | 0 => some .b
  | 1 => some .c
  | 2 => some .d
  | 3 => some .e
  | 4 => some .xh
  | 5 => some .xl
  | 6 => none
  | 7 => some .a

/-- The code of a condition (R136). -/
def Cond.code : Cond → Fin 8
  | .nz => 0
  | .z => 1
  | .nc => 2
  | .c => 3
  | .po => 4
  | .pe => 5
  | .p => 6
  | .m => 7

/-- The condition with a code (R136). -/
def Cond.ofCode : Fin 8 → Cond
  | 0 => .nz
  | 1 => .z
  | 2 => .nc
  | 3 => .c
  | 4 => .po
  | 5 => .pe
  | 6 => .p
  | 7 => .m

/-- `alu[y]` (R137). -/
def AluOp.ofCode : Fin 8 → AluOp
  | 0 => .add
  | 1 => .adc
  | 2 => .sub
  | 3 => .sbc
  | 4 => .and
  | 5 => .xor
  | 6 => .or
  | 7 => .cp

/-- `rot[y]` (R137). -/
def RotOp.ofCode : Fin 8 → RotOp
  | 0 => .rlc
  | 1 => .rrc
  | 2 => .rl
  | 3 => .rr
  | 4 => .sla
  | 5 => .sra
  | 6 => .sll
  | 7 => .srl

/-- The CB prefix byte (R143). -/
def cbByte : Byte := 0xCB

/-- The ED prefix byte (R144). -/
def edByte : Byte := 0xED

/-- The DD or FD prefix byte that selects an index register (R140). -/
def Index.prefixByte : Index → Byte
  | .ix => 0xDD
  | .iy => 0xFD

/-- The thirteen formats of R131. -/
inductive Format where
  | op | opN | opE | opNN | cbOp | edOp | edOpNN | xyOp | xyOpN | xyOpD | xyOpNN | xyOpDN | xycbDOp
deriving DecidableEq, Repr

/-- How many bytes the instruction's own step reads with `FetchOpcode()`: column "read by" of R131 without the DD or
FD byte, which is a step of its own (R140). -/
def Format.opcodeReads : Format → Nat
  | .op => 1
  | .opN => 1
  | .opE => 1
  | .opNN => 1
  | .cbOp => 2
  | .edOp => 2
  | .edOpNN => 2
  | .xyOp => 1
  | .xyOpN => 1
  | .xyOpD => 1
  | .xyOpNN => 1
  | .xyOpDN => 1
  | .xycbDOp => 1

/-- How many bytes it reads with `FetchArg()`, after those (R131). -/
def Format.argReads : Format → Nat
  | .op => 0
  | .opN => 1
  | .opE => 1
  | .opNN => 2
  | .cbOp => 0
  | .edOp => 0
  | .edOpNN => 2
  | .xyOp => 0
  | .xyOpN => 1
  | .xyOpD => 1
  | .xyOpNN => 2
  | .xyOpDN => 2
  | .xycbDOp => 2

/-- The format of each instruction (R131). An opcode that falls through in index mode keeps the format its base row
has: the prefix byte was a step of its own (R141). -/
def Instr.format : Instr → Format
  | .nop => .op
  | .exAfAf2 => .op
  | .djnz _ => .opE
  | .jr _ => .opE
  | .jrNz _ => .opE
  | .jrZ _ => .opE
  | .jrNc _ => .opE
  | .jrC _ => .opE
  | .ldDdNn _ _ => .opNN
  | .addHlSs _ => .op
  | .ldIndBcA => .op
  | .ldIndDeA => .op
  | .ldIndNnHl _ => .opNN
  | .ldIndNnA _ => .opNN
  | .ldAIndBc => .op
  | .ldAIndDe => .op
  | .ldHlIndNn _ => .opNN
  | .ldAIndNn _ => .opNN
  | .incSs _ => .op
  | .decSs _ => .op
  | .incR _ => .op
  | .incIndHl => .op
  | .decR _ => .op
  | .decIndHl => .op
  | .ldRN _ _ => .opN
  | .ldIndHlN _ => .opN
  | .rlca => .op
  | .rrca => .op
  | .rla => .op
  | .rra => .op
  | .daa => .op
  | .cpl => .op
  | .scf => .op
  | .ccf => .op
  | .ldRR _ _ => .op
  | .ldRIndHl _ => .op
  | .ldIndHlR _ => .op
  | .halt => .op
  | .addAR _ => .op
  | .addAIndHl => .op
  | .addAN _ => .opN
  | .adcAR _ => .op
  | .adcAIndHl => .op
  | .adcAN _ => .opN
  | .subR _ => .op
  | .subIndHl => .op
  | .subN _ => .opN
  | .sbcAR _ => .op
  | .sbcAIndHl => .op
  | .sbcAN _ => .opN
  | .andR _ => .op
  | .andIndHl => .op
  | .andN _ => .opN
  | .xorR _ => .op
  | .xorIndHl => .op
  | .xorN _ => .opN
  | .orR _ => .op
  | .orIndHl => .op
  | .orN _ => .opN
  | .cpR _ => .op
  | .cpIndHl => .op
  | .cpN _ => .opN
  | .retCc _ => .op
  | .popQq _ => .op
  | .ret => .op
  | .exx => .op
  | .jpHl => .op
  | .ldSpHl => .op
  | .jpCcNn _ _ => .opNN
  | .jpNn _ => .opNN
  | .outNA _ => .opN
  | .inAN _ => .opN
  | .exSpHl => .op
  | .exDeHl => .op
  | .di => .op
  | .ei => .op
  | .callCcNn _ _ => .opNN
  | .pushQq _ => .op
  | .callNn _ => .opNN
  | .rst _ => .op
  | .prefixIx => .op
  | .prefixIy => .op
  | .rlcR _ => .cbOp
  | .rlcIndHl => .cbOp
  | .rrcR _ => .cbOp
  | .rrcIndHl => .cbOp
  | .rlR _ => .cbOp
  | .rlIndHl => .cbOp
  | .rrR _ => .cbOp
  | .rrIndHl => .cbOp
  | .slaR _ => .cbOp
  | .slaIndHl => .cbOp
  | .sraR _ => .cbOp
  | .sraIndHl => .cbOp
  | .sllR _ => .cbOp
  | .sllIndHl => .cbOp
  | .srlR _ => .cbOp
  | .srlIndHl => .cbOp
  | .bitBR _ _ => .cbOp
  | .bitBIndHl _ => .cbOp
  | .resBR _ _ => .cbOp
  | .resBIndHl _ => .cbOp
  | .setBR _ _ => .cbOp
  | .setBIndHl _ => .cbOp
  | .inRC _ => .edOp
  | .inC => .edOp
  | .outCR _ => .edOp
  | .outC0 => .edOp
  | .sbcHlSs _ => .edOp
  | .adcHlSs _ => .edOp
  | .ldIndNnDd _ _ => .edOpNN
  | .ldDdIndNn _ _ => .edOpNN
  | .neg => .edOp
  | .negAlias _ => .edOp
  | .retn => .edOp
  | .reti => .edOp
  | .retnAlias _ => .edOp
  | .im0 => .edOp
  | .im0Alias _ => .edOp
  | .im1 => .edOp
  | .im1Alias => .edOp
  | .im2 => .edOp
  | .im2Alias => .edOp
  | .ldIA => .edOp
  | .ldRefA => .edOp
  | .ldAI => .edOp
  | .ldARef => .edOp
  | .rrd => .edOp
  | .rld => .edOp
  | .ldi => .edOp
  | .cpi => .edOp
  | .ini => .edOp
  | .outi => .edOp
  | .ldd => .edOp
  | .cpd => .edOp
  | .ind => .edOp
  | .outd => .edOp
  | .ldir => .edOp
  | .cpir => .edOp
  | .inir => .edOp
  | .otir => .edOp
  | .lddr => .edOp
  | .cpdr => .edOp
  | .indr => .edOp
  | .otdr => .edOp
  | .edNop _ => .edOp
  | .ldXyNn _ _ => .xyOpNN
  | .addXyPp _ _ => .xyOp
  | .ldIndNnXy _ _ => .xyOpNN
  | .ldXyIndNn _ _ => .xyOpNN
  | .incXy _ => .xyOp
  | .decXy _ => .xyOp
  | .incXyHalf _ _ => .xyOp
  | .decXyHalf _ _ => .xyOp
  | .ldXyHalfN _ _ _ => .xyOpN
  | .incIndXy _ _ => .xyOpD
  | .decIndXy _ _ => .xyOpD
  | .ldIndXyN _ _ _ => .xyOpDN
  | .ldPP _ _ _ => .xyOp
  | .ldRIndXy _ _ _ => .xyOpD
  | .ldIndXyR _ _ _ => .xyOpD
  | .addAXyHalf _ _ => .xyOp
  | .addAIndXy _ _ => .xyOpD
  | .adcAXyHalf _ _ => .xyOp
  | .adcAIndXy _ _ => .xyOpD
  | .subXyHalf _ _ => .xyOp
  | .subIndXy _ _ => .xyOpD
  | .sbcAXyHalf _ _ => .xyOp
  | .sbcAIndXy _ _ => .xyOpD
  | .andXyHalf _ _ => .xyOp
  | .andIndXy _ _ => .xyOpD
  | .xorXyHalf _ _ => .xyOp
  | .xorIndXy _ _ => .xyOpD
  | .orXyHalf _ _ => .xyOp
  | .orIndXy _ _ => .xyOpD
  | .cpXyHalf _ _ => .xyOp
  | .cpIndXy _ _ => .xyOpD
  | .popXy _ => .xyOp
  | .jpXy _ => .xyOp
  | .ldSpXy _ => .xyOp
  | .exSpXy _ => .xyOp
  | .pushXy _ => .xyOp
  | .rlcIndXy _ _ => .xycbDOp
  | .rlcIndXyR _ _ _ => .xycbDOp
  | .rrcIndXy _ _ => .xycbDOp
  | .rrcIndXyR _ _ _ => .xycbDOp
  | .rlIndXy _ _ => .xycbDOp
  | .rlIndXyR _ _ _ => .xycbDOp
  | .rrIndXy _ _ => .xycbDOp
  | .rrIndXyR _ _ _ => .xycbDOp
  | .slaIndXy _ _ => .xycbDOp
  | .slaIndXyR _ _ _ => .xycbDOp
  | .sraIndXy _ _ => .xycbDOp
  | .sraIndXyR _ _ _ => .xycbDOp
  | .sllIndXy _ _ => .xycbDOp
  | .sllIndXyR _ _ _ => .xycbDOp
  | .srlIndXy _ _ => .xycbDOp
  | .srlIndXyR _ _ _ => .xycbDOp
  | .bitBIndXy _ _ _ => .xycbDOp
  | .bitBIndXyAlias _ _ _ _ => .xycbDOp
  | .resBIndXy _ _ _ => .xycbDOp
  | .resBIndXyR _ _ _ _ => .xycbDOp
  | .setBIndXy _ _ _ => .xycbDOp
  | .setBIndXyR _ _ _ _ => .xycbDOp
  | .unaffected _ i => i.format

/-- How many bytes the instruction's step fetches. -/
def Instr.stepLength (i : Instr) : Nat := i.format.opcodeReads + i.format.argReads

/-- Row `alu[y] r` of the base table, x = 2 (R142). -/
def aluR : AluOp → Reg8 → Instr
  | .add => .addAR
  | .adc => .adcAR
  | .sub => .subR
  | .sbc => .sbcAR
  | .and => .andR
  | .xor => .xorR
  | .or => .orR
  | .cp => .cpR

/-- Row `alu[y] (HL)` (R142). -/
def aluIndHl : AluOp → Instr
  | .add => .addAIndHl
  | .adc => .adcAIndHl
  | .sub => .subIndHl
  | .sbc => .sbcAIndHl
  | .and => .andIndHl
  | .xor => .xorIndHl
  | .or => .orIndHl
  | .cp => .cpIndHl

/-- Row `alu[y] n` (R142). -/
def aluN : AluOp → Byte → Instr
  | .add => .addAN
  | .adc => .adcAN
  | .sub => .subN
  | .sbc => .sbcAN
  | .and => .andN
  | .xor => .xorN
  | .or => .orN
  | .cp => .cpN

/-- Row `alu[y] XYh` or `XYl` (R145). -/
def aluXyHalf : AluOp → Index → Half → Instr
  | .add => .addAXyHalf
  | .adc => .adcAXyHalf
  | .sub => .subXyHalf
  | .sbc => .sbcAXyHalf
  | .and => .andXyHalf
  | .xor => .xorXyHalf
  | .or => .orXyHalf
  | .cp => .cpXyHalf

/-- Row `alu[y] (XY+d)` (R145). -/
def aluIndXy : AluOp → Index → Byte → Instr
  | .add => .addAIndXy
  | .adc => .adcAIndXy
  | .sub => .subIndXy
  | .sbc => .sbcAIndXy
  | .and => .andIndXy
  | .xor => .xorIndXy
  | .or => .orIndXy
  | .cp => .cpIndXy

/-- Row `rot[y] r` of the CB table (R143). -/
def rotR : RotOp → Reg8 → Instr
  | .rlc => .rlcR
  | .rrc => .rrcR
  | .rl => .rlR
  | .rr => .rrR
  | .sla => .slaR
  | .sra => .sraR
  | .sll => .sllR
  | .srl => .srlR

/-- Row `rot[y] (HL)` (R143). -/
def rotIndHl : RotOp → Instr
  | .rlc => .rlcIndHl
  | .rrc => .rrcIndHl
  | .rl => .rlIndHl
  | .rr => .rrIndHl
  | .sla => .slaIndHl
  | .sra => .sraIndHl
  | .sll => .sllIndHl
  | .srl => .srlIndHl

/-- Row `rot[y] (XY+d)` of the XYCB table (R146). -/
def rotIndXy : RotOp → Index → Byte → Instr
  | .rlc => .rlcIndXy
  | .rrc => .rrcIndXy
  | .rl => .rlIndXy
  | .rr => .rrIndXy
  | .sla => .slaIndXy
  | .sra => .sraIndXy
  | .sll => .sllIndXy
  | .srl => .srlIndXy

/-- Row `rot[y] (XY+d),r` (R146). -/
def rotIndXyR : RotOp → Index → Byte → Reg8 → Instr
  | .rlc => .rlcIndXyR
  | .rrc => .rrcIndXyR
  | .rl => .rlIndXyR
  | .rr => .rrIndXyR
  | .sla => .slaIndXyR
  | .sra => .sraIndXyR
  | .sll => .sllIndXyR
  | .srl => .srlIndXyR

/-- The base table, quadrant x = 0 (R142): fields y and z of the opcode byte, then the bytes after it. -/
def decodeQ0 (y z : Fin 8) (b1 b2 : Byte) : Instr :=
  match z with
  | 0 =>
    match y with
    | 0 => .nop
    | 1 => .exAfAf2
    | 2 => .djnz b1
    | 3 => .jr b1
    | 4 => .jrNz b1
    | 5 => .jrZ b1
    | 6 => .jrNc b1
    | 7 => .jrC b1
  | 1 =>
    match qOf y with
    | 0 => .ldDdNn (RegP.ofCode (pOf y)) (wordOf b2 b1)
    | 1 => .addHlSs (RegP.ofCode (pOf y))
  | 2 =>
    match y with
    | 0 => .ldIndBcA
    | 1 => .ldAIndBc
    | 2 => .ldIndDeA
    | 3 => .ldAIndDe
    | 4 => .ldIndNnHl (wordOf b2 b1)
    | 5 => .ldHlIndNn (wordOf b2 b1)
    | 6 => .ldIndNnA (wordOf b2 b1)
    | 7 => .ldAIndNn (wordOf b2 b1)
  | 3 =>
    match qOf y with
    | 0 => .incSs (RegP.ofCode (pOf y))
    | 1 => .decSs (RegP.ofCode (pOf y))
  | 4 =>
    match Reg8.ofCode y with
    | some r => .incR r
    | none => .incIndHl
  | 5 =>
    match Reg8.ofCode y with
    | some r => .decR r
    | none => .decIndHl
  | 6 =>
    match Reg8.ofCode y with
    | some r => .ldRN r b1
    | none => .ldIndHlN b1
  | 7 =>
    match y with
    | 0 => .rlca
    | 1 => .rrca
    | 2 => .rla
    | 3 => .rra
    | 4 => .daa
    | 5 => .cpl
    | 6 => .scf
    | 7 => .ccf

/-- The base table, quadrant x = 1: the 8-bit loads and HALT (R142). -/
def decodeQ1 (y z : Fin 8) : Instr :=
  match Reg8.ofCode y, Reg8.ofCode z with
  | some r, some r' => .ldRR r r'
  | some r, none => .ldRIndHl r
  | none, some r' => .ldIndHlR r'
  | none, none => .halt

/-- The base table, quadrant x = 2: the 8-bit arithmetic and logic (R142). -/
def decodeQ2 (y z : Fin 8) : Instr :=
  match Reg8.ofCode z with
  | some r => aluR (AluOp.ofCode y) r
  | none => aluIndHl (AluOp.ofCode y)

/-- The CB table (R143): the operation byte. -/
def decodeCB (o : Byte) : Instr :=
  match opX o, Reg8.ofCode (opZ o) with
  | 0, some r => rotR (RotOp.ofCode (opY o)) r
  | 0, none => rotIndHl (RotOp.ofCode (opY o))
  | 1, some r => .bitBR (opY o) r
  | 1, none => .bitBIndHl (opY o)
  | 2, some r => .resBR (opY o) r
  | 2, none => .resBIndHl (opY o)
  | 3, some r => .setBR (opY o) r
  | 3, none => .setBIndHl (opY o)

/-- The ED table, rows 4x to 7x (R144): the operation byte `o` with fields y and z, then a 16-bit operand. -/
def decodeEDQ1 (o : Byte) (nn : Word) : Instr :=
  let y := opY o
  match opZ o with
  | 0 =>
    match Reg8.ofCode y with
    | some r => .inRC r
    | none => .inC
  | 1 =>
    match Reg8.ofCode y with
    | some r => .outCR r
    | none => .outC0
  | 2 =>
    match qOf y with
    | 0 => .sbcHlSs (RegP.ofCode (pOf y))
    | 1 => .adcHlSs (RegP.ofCode (pOf y))
  | 3 =>
    match qOf y with
    | 0 => .ldIndNnDd nn (RegP.ofCode (pOf y))
    | 1 => .ldDdIndNn (RegP.ofCode (pOf y)) nn
  | 4 =>
    match y with
    | 0 => .neg
    | 1 => .negAlias 1
    | 2 => .negAlias 2
    | 3 => .negAlias 3
    | 4 => .negAlias 4
    | 5 => .negAlias 5
    | 6 => .negAlias 6
    | 7 => .negAlias 7
  | 5 =>
    match y with
    | 0 => .retn
    | 1 => .reti
    | 2 => .retnAlias 2
    | 3 => .retnAlias 3
    | 4 => .retnAlias 4
    | 5 => .retnAlias 5
    | 6 => .retnAlias 6
    | 7 => .retnAlias 7
  | 6 =>
    match y with
    | 0 => .im0
    | 1 => .im0Alias 1
    | 2 => .im1
    | 3 => .im2
    | 4 => .im0Alias 4
    | 5 => .im0Alias 5
    | 6 => .im1Alias
    | 7 => .im2Alias
  | 7 =>
    match y with
    | 0 => .ldIA
    | 1 => .ldRefA
    | 2 => .ldAI
    | 3 => .ldARef
    | 4 => .rrd
    | 5 => .rld
    | 6 => .edNop o
    | 7 => .edNop o

/-- The ED table, rows 8x to Bx (R144): the block instructions at y in 4..7 and z in 0..3. -/
def decodeEDQ2 (o : Byte) : Instr :=
  match opY o, opZ o with
  | 4, 0 => .ldi
  | 4, 1 => .cpi
  | 4, 2 => .ini
  | 4, 3 => .outi
  | 5, 0 => .ldd
  | 5, 1 => .cpd
  | 5, 2 => .ind
  | 5, 3 => .outd
  | 6, 0 => .ldir
  | 6, 1 => .cpir
  | 6, 2 => .inir
  | 6, 3 => .otir
  | 7, 0 => .lddr
  | 7, 1 => .cpdr
  | 7, 2 => .indr
  | 7, 3 => .otdr
  | _, _ => .edNop o

/-- The ED table (R144): every value it does not name is the two-byte no-operation of R312. -/
def decodeED (o lo hi : Byte) : Instr :=
  match opX o with
  | 0 => .edNop o
  | 1 => decodeEDQ1 o (wordOf hi lo)
  | 2 => decodeEDQ2 o
  | 3 => .edNop o

/-- The base table, quadrant x = 3 (R142), with the bytes after the opcode byte. The CB and ED bytes lead to their
tables; DD and FD are the prefix steps (R140). -/
def decodeQ3 (y z : Fin 8) (b1 b2 b3 : Byte) : Instr :=
  match z with
  | 0 => .retCc (Cond.ofCode y)
  | 1 =>
    match y with
    | 0 => .popQq .bc
    | 1 => .ret
    | 2 => .popQq .de
    | 3 => .exx
    | 4 => .popQq .hl
    | 5 => .jpHl
    | 6 => .popQq .af
    | 7 => .ldSpHl
  | 2 => .jpCcNn (Cond.ofCode y) (wordOf b2 b1)
  | 3 =>
    match y with
    | 0 => .jpNn (wordOf b2 b1)
    | 1 => decodeCB b1
    | 2 => .outNA b1
    | 3 => .inAN b1
    | 4 => .exSpHl
    | 5 => .exDeHl
    | 6 => .di
    | 7 => .ei
  | 4 => .callCcNn (Cond.ofCode y) (wordOf b2 b1)
  | 5 =>
    match y with
    | 0 => .pushQq .bc
    | 1 => .callNn (wordOf b2 b1)
    | 2 => .pushQq .de
    | 3 => .prefixIx
    | 4 => .pushQq .hl
    | 5 => decodeED b1 b2 b3
    | 6 => .pushQq .af
    | 7 => .prefixIy
  | 6 => aluN (AluOp.ofCode y) b1
  | 7 => .rst y

/-- Decoding with no index mode (R139): the base table on the opcode byte `b0`, and the bytes after it. -/
def decodeBase (b0 b1 b2 b3 : Byte) : Instr :=
  match opX b0 with
  | 0 => decodeQ0 (opY b0) (opZ b0) b1 b2
  | 1 => decodeQ1 (opY b0) (opZ b0)
  | 2 => decodeQ2 (opY b0) (opZ b0)
  | 3 => decodeQ3 (opY b0) (opZ b0) b1 b2 b3

/-- The XY table, quadrant x = 0 (R145); none where the table lists nothing. -/
def decodeXYQ0 (x : Index) (y z : Fin 8) (b1 b2 : Byte) : Option Instr :=
  match z with
  | 0 => none
  | 1 =>
    match qOf y with
    | 0 => if y = 4 then some (.ldXyNn x (wordOf b2 b1)) else none
    | 1 => some (.addXyPp x (RegX.ofCode (pOf y)))
  | 2 =>
    if y = 4 then some (.ldIndNnXy x (wordOf b2 b1)) else if y = 5 then some (.ldXyIndNn x (wordOf b2 b1)) else none
  | 3 => if y = 4 then some (.incXy x) else if y = 5 then some (.decXy x) else none
  | 4 =>
    match Half.ofCode y with
    | some k => some (.incXyHalf x k)
    | none => if y = 6 then some (.incIndXy x b1) else none
  | 5 =>
    match Half.ofCode y with
    | some k => some (.decXyHalf x k)
    | none => if y = 6 then some (.decIndXy x b1) else none
  | 6 =>
    match Half.ofCode y with
    | some k => some (.ldXyHalfN x k b1)
    | none => if y = 6 then some (.ldIndXyN x b1 b2) else none
  | 7 => none

/-- The XY table, quadrant x = 1 (R145): with a memory operand the register operand stays H or L; without one both
registers are replaced (R135). -/
def decodeXYQ1 (x : Index) (y z : Fin 8) (b1 : Byte) : Option Instr :=
  match Reg8.ofCode y, Reg8.ofCode z with
  | some r, none => some (.ldRIndXy x r b1)
  | none, some r' => some (.ldIndXyR x b1 r')
  | none, none => none
  | some _, some _ =>
    match IReg8.ofCode y, IReg8.ofCode z with
    | some p, some p' => if p.isHalf || p'.isHalf then some (.ldPP x p p') else none
    | _, _ => none

/-- The XY table, quadrant x = 2 (R145). -/
def decodeXYQ2 (x : Index) (y z : Fin 8) (b1 : Byte) : Option Instr :=
  match Half.ofCode z with
  | some k => some (aluXyHalf (AluOp.ofCode y) x k)
  | none => if z = 6 then some (aluIndXy (AluOp.ofCode y) x b1) else none

/-- The XY table, quadrant x = 3 (R145). -/
def decodeXYQ3 (x : Index) (y z : Fin 8) : Option Instr :=
  match z with
  | 1 => if y = 4 then some (.popXy x) else if y = 5 then some (.jpXy x) else if y = 7 then some (.ldSpXy x) else none
  | 3 => if y = 4 then some (.exSpXy x) else none
  | 5 => if y = 4 then some (.pushXy x) else none
  | 0 => none
  | 2 => none
  | 4 => none
  | 6 => none
  | 7 => none

/-- The XY table (R145): none for the opcode bytes that fall through (R141). -/
def decodeXY (x : Index) (b0 b1 b2 : Byte) : Option Instr :=
  match opX b0 with
  | 0 => decodeXYQ0 x (opY b0) (opZ b0) b1 b2
  | 1 => decodeXYQ1 x (opY b0) (opZ b0) b1
  | 2 => decodeXYQ2 x (opY b0) (opZ b0) b1
  | 3 => decodeXYQ3 x (opY b0) (opZ b0)

/-- The XYCB table (R146): the displacement stands before the operation byte `o`. -/
def decodeXYCB (x : Index) (d o : Byte) : Instr :=
  match opX o, Reg8.ofCode (opZ o) with
  | 0, none => rotIndXy (RotOp.ofCode (opY o)) x d
  | 0, some r => rotIndXyR (RotOp.ofCode (opY o)) x d r
  | 1, none => .bitBIndXy x d (opY o)
  | 1, some _ => .bitBIndXyAlias x d (opY o) (opZ o)
  | 2, none => .resBIndXy x d (opY o)
  | 2, some r => .resBIndXyR x d (opY o) r
  | 3, none => .setBIndXy x d (opY o)
  | 3, some r => .setBIndXyR x d (opY o) r

/-- The decoder of a step (R139): the instruction that the bytes at PC give in an index mode. Total: every byte
sequence is an instruction (R147). Bytes the instruction does not use play no part. -/
def decodeWindow (m : Option Index) (b0 b1 b2 b3 : Byte) : Instr :=
  match m with
  | none => decodeBase b0 b1 b2 b3
  | some x =>
    if b0 = cbByte then decodeXYCB x b1 b2
    else
      match decodeXY x b0 b1 b2 with
      | some i => i
      | none => .unaffected x (decodeBase b0 b1 b2 b3)

/-- Why a list of bytes is not the encoding of an instruction: it ends before the instruction does. There is no other
reason (R147). -/
inductive DecodeError where
  | truncated
deriving DecidableEq, Repr

/-- Decode one instruction from a list of bytes, in an index mode, and give the rest of the list. -/
def decode (m : Option Index) (bs : List Byte) : Except DecodeError (Instr × List Byte) :=
  let i := decodeWindow m (bs.getD 0 0) (bs.getD 1 0) (bs.getD 2 0) (bs.getD 3 0)
  if i.stepLength ≤ bs.length then .ok (i, bs.drop i.stepLength) else .error .truncated

/-- Decode the bytes of one row of the opcode table: a DD or FD byte followed by another byte selects the index mode
of that byte; alone it is the prefix instruction. -/
def decodeBytes : List Byte → Except DecodeError (Instr × List Byte)
  | [] => .error .truncated
  | [b] => decode none [b]
  | b :: c :: bs =>
    if b = Index.ix.prefixByte then decode (some .ix) (c :: bs)
    else if b = Index.iy.prefixByte then decode (some .iy) (c :: bs)
    else decode none (b :: c :: bs)

/-- The bytes the step of an instruction fetches, in order, written from the encodings of spec/30_encoding.md R131 and
R142 to R146. The DD or FD byte in front of an XY instruction is not among them: it is a step of its own (R140). -/
def Instr.encodeOp : Instr → List Byte
  | .nop => [opOf 0 0 0]
  | .exAfAf2 => [opOf 0 1 0]
  | .djnz e => [opOf 0 2 0, e]
  | .jr e => [opOf 0 3 0, e]
  | .jrNz e => [opOf 0 4 0, e]
  | .jrZ e => [opOf 0 5 0, e]
  | .jrNc e => [opOf 0 6 0, e]
  | .jrC e => [opOf 0 7 0, e]
  | .ldDdNn dd nn => [opOf 0 (yOf dd.code 0) 1, loByte nn, hiByte nn]
  | .addHlSs ss => [opOf 0 (yOf ss.code 1) 1]
  | .ldIndBcA => [opOf 0 0 2]
  | .ldIndDeA => [opOf 0 2 2]
  | .ldIndNnHl nn => [opOf 0 4 2, loByte nn, hiByte nn]
  | .ldIndNnA nn => [opOf 0 6 2, loByte nn, hiByte nn]
  | .ldAIndBc => [opOf 0 1 2]
  | .ldAIndDe => [opOf 0 3 2]
  | .ldHlIndNn nn => [opOf 0 5 2, loByte nn, hiByte nn]
  | .ldAIndNn nn => [opOf 0 7 2, loByte nn, hiByte nn]
  | .incSs ss => [opOf 0 (yOf ss.code 0) 3]
  | .decSs ss => [opOf 0 (yOf ss.code 1) 3]
  | .incR r => [opOf 0 r.code 4]
  | .incIndHl => [opOf 0 6 4]
  | .decR r => [opOf 0 r.code 5]
  | .decIndHl => [opOf 0 6 5]
  | .ldRN r n => [opOf 0 r.code 6, n]
  | .ldIndHlN n => [opOf 0 6 6, n]
  | .rlca => [opOf 0 0 7]
  | .rrca => [opOf 0 1 7]
  | .rla => [opOf 0 2 7]
  | .rra => [opOf 0 3 7]
  | .daa => [opOf 0 4 7]
  | .cpl => [opOf 0 5 7]
  | .scf => [opOf 0 6 7]
  | .ccf => [opOf 0 7 7]
  | .ldRR r r' => [opOf 1 r.code r'.code]
  | .ldRIndHl r => [opOf 1 r.code 6]
  | .ldIndHlR r => [opOf 1 6 r.code]
  | .halt => [opOf 1 6 6]
  | .addAR r => [opOf 2 0 r.code]
  | .addAIndHl => [opOf 2 0 6]
  | .addAN n => [opOf 3 0 6, n]
  | .adcAR r => [opOf 2 1 r.code]
  | .adcAIndHl => [opOf 2 1 6]
  | .adcAN n => [opOf 3 1 6, n]
  | .subR r => [opOf 2 2 r.code]
  | .subIndHl => [opOf 2 2 6]
  | .subN n => [opOf 3 2 6, n]
  | .sbcAR r => [opOf 2 3 r.code]
  | .sbcAIndHl => [opOf 2 3 6]
  | .sbcAN n => [opOf 3 3 6, n]
  | .andR r => [opOf 2 4 r.code]
  | .andIndHl => [opOf 2 4 6]
  | .andN n => [opOf 3 4 6, n]
  | .xorR r => [opOf 2 5 r.code]
  | .xorIndHl => [opOf 2 5 6]
  | .xorN n => [opOf 3 5 6, n]
  | .orR r => [opOf 2 6 r.code]
  | .orIndHl => [opOf 2 6 6]
  | .orN n => [opOf 3 6 6, n]
  | .cpR r => [opOf 2 7 r.code]
  | .cpIndHl => [opOf 2 7 6]
  | .cpN n => [opOf 3 7 6, n]
  | .retCc cc => [opOf 3 cc.code 0]
  | .popQq qq => [opOf 3 (yOf qq.code 0) 1]
  | .ret => [opOf 3 1 1]
  | .exx => [opOf 3 3 1]
  | .jpHl => [opOf 3 5 1]
  | .ldSpHl => [opOf 3 7 1]
  | .jpCcNn cc nn => [opOf 3 cc.code 2, loByte nn, hiByte nn]
  | .jpNn nn => [opOf 3 0 3, loByte nn, hiByte nn]
  | .outNA n => [opOf 3 2 3, n]
  | .inAN n => [opOf 3 3 3, n]
  | .exSpHl => [opOf 3 4 3]
  | .exDeHl => [opOf 3 5 3]
  | .di => [opOf 3 6 3]
  | .ei => [opOf 3 7 3]
  | .callCcNn cc nn => [opOf 3 cc.code 4, loByte nn, hiByte nn]
  | .pushQq qq => [opOf 3 (yOf qq.code 0) 5]
  | .callNn nn => [opOf 3 1 5, loByte nn, hiByte nn]
  | .rst t => [opOf 3 t 7]
  | .prefixIx => [opOf 3 3 5]
  | .prefixIy => [opOf 3 7 5]
  | .rlcR r => [cbByte, opOf 0 0 r.code]
  | .rlcIndHl => [cbByte, opOf 0 0 6]
  | .rrcR r => [cbByte, opOf 0 1 r.code]
  | .rrcIndHl => [cbByte, opOf 0 1 6]
  | .rlR r => [cbByte, opOf 0 2 r.code]
  | .rlIndHl => [cbByte, opOf 0 2 6]
  | .rrR r => [cbByte, opOf 0 3 r.code]
  | .rrIndHl => [cbByte, opOf 0 3 6]
  | .slaR r => [cbByte, opOf 0 4 r.code]
  | .slaIndHl => [cbByte, opOf 0 4 6]
  | .sraR r => [cbByte, opOf 0 5 r.code]
  | .sraIndHl => [cbByte, opOf 0 5 6]
  | .sllR r => [cbByte, opOf 0 6 r.code]
  | .sllIndHl => [cbByte, opOf 0 6 6]
  | .srlR r => [cbByte, opOf 0 7 r.code]
  | .srlIndHl => [cbByte, opOf 0 7 6]
  | .bitBR b r => [cbByte, opOf 1 b r.code]
  | .bitBIndHl b => [cbByte, opOf 1 b 6]
  | .resBR b r => [cbByte, opOf 2 b r.code]
  | .resBIndHl b => [cbByte, opOf 2 b 6]
  | .setBR b r => [cbByte, opOf 3 b r.code]
  | .setBIndHl b => [cbByte, opOf 3 b 6]
  | .inRC r => [edByte, opOf 1 r.code 0]
  | .inC => [edByte, opOf 1 6 0]
  | .outCR r => [edByte, opOf 1 r.code 1]
  | .outC0 => [edByte, opOf 1 6 1]
  | .sbcHlSs ss => [edByte, opOf 1 (yOf ss.code 0) 2]
  | .adcHlSs ss => [edByte, opOf 1 (yOf ss.code 1) 2]
  | .ldIndNnDd nn dd => [edByte, opOf 1 (yOf dd.code 0) 3, loByte nn, hiByte nn]
  | .ldDdIndNn dd nn => [edByte, opOf 1 (yOf dd.code 1) 3, loByte nn, hiByte nn]
  | .neg => [edByte, opOf 1 0 4]
  | .negAlias y => [edByte, opOf 1 y 4]
  | .retn => [edByte, opOf 1 0 5]
  | .reti => [edByte, opOf 1 1 5]
  | .retnAlias y => [edByte, opOf 1 y 5]
  | .im0 => [edByte, opOf 1 0 6]
  | .im0Alias y => [edByte, opOf 1 y 6]
  | .im1 => [edByte, opOf 1 2 6]
  | .im1Alias => [edByte, opOf 1 6 6]
  | .im2 => [edByte, opOf 1 3 6]
  | .im2Alias => [edByte, opOf 1 7 6]
  | .ldIA => [edByte, opOf 1 0 7]
  | .ldRefA => [edByte, opOf 1 1 7]
  | .ldAI => [edByte, opOf 1 2 7]
  | .ldARef => [edByte, opOf 1 3 7]
  | .rrd => [edByte, opOf 1 4 7]
  | .rld => [edByte, opOf 1 5 7]
  | .ldi => [edByte, opOf 2 4 0]
  | .cpi => [edByte, opOf 2 4 1]
  | .ini => [edByte, opOf 2 4 2]
  | .outi => [edByte, opOf 2 4 3]
  | .ldd => [edByte, opOf 2 5 0]
  | .cpd => [edByte, opOf 2 5 1]
  | .ind => [edByte, opOf 2 5 2]
  | .outd => [edByte, opOf 2 5 3]
  | .ldir => [edByte, opOf 2 6 0]
  | .cpir => [edByte, opOf 2 6 1]
  | .inir => [edByte, opOf 2 6 2]
  | .otir => [edByte, opOf 2 6 3]
  | .lddr => [edByte, opOf 2 7 0]
  | .cpdr => [edByte, opOf 2 7 1]
  | .indr => [edByte, opOf 2 7 2]
  | .otdr => [edByte, opOf 2 7 3]
  | .edNop o => [edByte, o]
  | .ldXyNn _ nn => [opOf 0 4 1, loByte nn, hiByte nn]
  | .addXyPp _ pp => [opOf 0 (yOf pp.code 1) 1]
  | .ldIndNnXy _ nn => [opOf 0 4 2, loByte nn, hiByte nn]
  | .ldXyIndNn _ nn => [opOf 0 5 2, loByte nn, hiByte nn]
  | .incXy _ => [opOf 0 4 3]
  | .decXy _ => [opOf 0 5 3]
  | .incXyHalf _ k => [opOf 0 k.code 4]
  | .decXyHalf _ k => [opOf 0 k.code 5]
  | .ldXyHalfN _ k n => [opOf 0 k.code 6, n]
  | .incIndXy _ d => [opOf 0 6 4, d]
  | .decIndXy _ d => [opOf 0 6 5, d]
  | .ldIndXyN _ d n => [opOf 0 6 6, d, n]
  | .ldPP _ p p' => [opOf 1 p.code p'.code]
  | .ldRIndXy _ r d => [opOf 1 r.code 6, d]
  | .ldIndXyR _ d r => [opOf 1 6 r.code, d]
  | .addAXyHalf _ k => [opOf 2 0 k.code]
  | .addAIndXy _ d => [opOf 2 0 6, d]
  | .adcAXyHalf _ k => [opOf 2 1 k.code]
  | .adcAIndXy _ d => [opOf 2 1 6, d]
  | .subXyHalf _ k => [opOf 2 2 k.code]
  | .subIndXy _ d => [opOf 2 2 6, d]
  | .sbcAXyHalf _ k => [opOf 2 3 k.code]
  | .sbcAIndXy _ d => [opOf 2 3 6, d]
  | .andXyHalf _ k => [opOf 2 4 k.code]
  | .andIndXy _ d => [opOf 2 4 6, d]
  | .xorXyHalf _ k => [opOf 2 5 k.code]
  | .xorIndXy _ d => [opOf 2 5 6, d]
  | .orXyHalf _ k => [opOf 2 6 k.code]
  | .orIndXy _ d => [opOf 2 6 6, d]
  | .cpXyHalf _ k => [opOf 2 7 k.code]
  | .cpIndXy _ d => [opOf 2 7 6, d]
  | .popXy _ => [opOf 3 4 1]
  | .jpXy _ => [opOf 3 5 1]
  | .ldSpXy _ => [opOf 3 7 1]
  | .exSpXy _ => [opOf 3 4 3]
  | .pushXy _ => [opOf 3 4 5]
  | .rlcIndXy _ d => [cbByte, d, opOf 0 0 6]
  | .rlcIndXyR _ d r => [cbByte, d, opOf 0 0 r.code]
  | .rrcIndXy _ d => [cbByte, d, opOf 0 1 6]
  | .rrcIndXyR _ d r => [cbByte, d, opOf 0 1 r.code]
  | .rlIndXy _ d => [cbByte, d, opOf 0 2 6]
  | .rlIndXyR _ d r => [cbByte, d, opOf 0 2 r.code]
  | .rrIndXy _ d => [cbByte, d, opOf 0 3 6]
  | .rrIndXyR _ d r => [cbByte, d, opOf 0 3 r.code]
  | .slaIndXy _ d => [cbByte, d, opOf 0 4 6]
  | .slaIndXyR _ d r => [cbByte, d, opOf 0 4 r.code]
  | .sraIndXy _ d => [cbByte, d, opOf 0 5 6]
  | .sraIndXyR _ d r => [cbByte, d, opOf 0 5 r.code]
  | .sllIndXy _ d => [cbByte, d, opOf 0 6 6]
  | .sllIndXyR _ d r => [cbByte, d, opOf 0 6 r.code]
  | .srlIndXy _ d => [cbByte, d, opOf 0 7 6]
  | .srlIndXyR _ d r => [cbByte, d, opOf 0 7 r.code]
  | .bitBIndXy _ d b => [cbByte, d, opOf 1 b 6]
  | .bitBIndXyAlias _ d b z => [cbByte, d, opOf 1 b z]
  | .resBIndXy _ d b => [cbByte, d, opOf 2 b 6]
  | .resBIndXyR _ d b r => [cbByte, d, opOf 2 b r.code]
  | .setBIndXy _ d b => [cbByte, d, opOf 3 b 6]
  | .setBIndXyR _ d b r => [cbByte, d, opOf 3 b r.code]
  | .unaffected _ i => i.encodeOp

/-- The index mode in which the step of an instruction decodes it: the index register of an XY or XYCB row, or of the
row for unaffected opcodes; none for every other row (R140). -/
def Instr.mode : Instr → Option Index
  | .nop => none
  | .exAfAf2 => none
  | .djnz _ => none
  | .jr _ => none
  | .jrNz _ => none
  | .jrZ _ => none
  | .jrNc _ => none
  | .jrC _ => none
  | .ldDdNn _ _ => none
  | .addHlSs _ => none
  | .ldIndBcA => none
  | .ldIndDeA => none
  | .ldIndNnHl _ => none
  | .ldIndNnA _ => none
  | .ldAIndBc => none
  | .ldAIndDe => none
  | .ldHlIndNn _ => none
  | .ldAIndNn _ => none
  | .incSs _ => none
  | .decSs _ => none
  | .incR _ => none
  | .incIndHl => none
  | .decR _ => none
  | .decIndHl => none
  | .ldRN _ _ => none
  | .ldIndHlN _ => none
  | .rlca => none
  | .rrca => none
  | .rla => none
  | .rra => none
  | .daa => none
  | .cpl => none
  | .scf => none
  | .ccf => none
  | .ldRR _ _ => none
  | .ldRIndHl _ => none
  | .ldIndHlR _ => none
  | .halt => none
  | .addAR _ => none
  | .addAIndHl => none
  | .addAN _ => none
  | .adcAR _ => none
  | .adcAIndHl => none
  | .adcAN _ => none
  | .subR _ => none
  | .subIndHl => none
  | .subN _ => none
  | .sbcAR _ => none
  | .sbcAIndHl => none
  | .sbcAN _ => none
  | .andR _ => none
  | .andIndHl => none
  | .andN _ => none
  | .xorR _ => none
  | .xorIndHl => none
  | .xorN _ => none
  | .orR _ => none
  | .orIndHl => none
  | .orN _ => none
  | .cpR _ => none
  | .cpIndHl => none
  | .cpN _ => none
  | .retCc _ => none
  | .popQq _ => none
  | .ret => none
  | .exx => none
  | .jpHl => none
  | .ldSpHl => none
  | .jpCcNn _ _ => none
  | .jpNn _ => none
  | .outNA _ => none
  | .inAN _ => none
  | .exSpHl => none
  | .exDeHl => none
  | .di => none
  | .ei => none
  | .callCcNn _ _ => none
  | .pushQq _ => none
  | .callNn _ => none
  | .rst _ => none
  | .prefixIx => none
  | .prefixIy => none
  | .rlcR _ => none
  | .rlcIndHl => none
  | .rrcR _ => none
  | .rrcIndHl => none
  | .rlR _ => none
  | .rlIndHl => none
  | .rrR _ => none
  | .rrIndHl => none
  | .slaR _ => none
  | .slaIndHl => none
  | .sraR _ => none
  | .sraIndHl => none
  | .sllR _ => none
  | .sllIndHl => none
  | .srlR _ => none
  | .srlIndHl => none
  | .bitBR _ _ => none
  | .bitBIndHl _ => none
  | .resBR _ _ => none
  | .resBIndHl _ => none
  | .setBR _ _ => none
  | .setBIndHl _ => none
  | .inRC _ => none
  | .inC => none
  | .outCR _ => none
  | .outC0 => none
  | .sbcHlSs _ => none
  | .adcHlSs _ => none
  | .ldIndNnDd _ _ => none
  | .ldDdIndNn _ _ => none
  | .neg => none
  | .negAlias _ => none
  | .retn => none
  | .reti => none
  | .retnAlias _ => none
  | .im0 => none
  | .im0Alias _ => none
  | .im1 => none
  | .im1Alias => none
  | .im2 => none
  | .im2Alias => none
  | .ldIA => none
  | .ldRefA => none
  | .ldAI => none
  | .ldARef => none
  | .rrd => none
  | .rld => none
  | .ldi => none
  | .cpi => none
  | .ini => none
  | .outi => none
  | .ldd => none
  | .cpd => none
  | .ind => none
  | .outd => none
  | .ldir => none
  | .cpir => none
  | .inir => none
  | .otir => none
  | .lddr => none
  | .cpdr => none
  | .indr => none
  | .otdr => none
  | .edNop _ => none
  | .ldXyNn x _ => some x
  | .addXyPp x _ => some x
  | .ldIndNnXy x _ => some x
  | .ldXyIndNn x _ => some x
  | .incXy x => some x
  | .decXy x => some x
  | .incXyHalf x _ => some x
  | .decXyHalf x _ => some x
  | .ldXyHalfN x _ _ => some x
  | .incIndXy x _ => some x
  | .decIndXy x _ => some x
  | .ldIndXyN x _ _ => some x
  | .ldPP x _ _ => some x
  | .ldRIndXy x _ _ => some x
  | .ldIndXyR x _ _ => some x
  | .addAXyHalf x _ => some x
  | .addAIndXy x _ => some x
  | .adcAXyHalf x _ => some x
  | .adcAIndXy x _ => some x
  | .subXyHalf x _ => some x
  | .subIndXy x _ => some x
  | .sbcAXyHalf x _ => some x
  | .sbcAIndXy x _ => some x
  | .andXyHalf x _ => some x
  | .andIndXy x _ => some x
  | .xorXyHalf x _ => some x
  | .xorIndXy x _ => some x
  | .orXyHalf x _ => some x
  | .orIndXy x _ => some x
  | .cpXyHalf x _ => some x
  | .cpIndXy x _ => some x
  | .popXy x => some x
  | .jpXy x => some x
  | .ldSpXy x => some x
  | .exSpXy x => some x
  | .pushXy x => some x
  | .rlcIndXy x _ => some x
  | .rlcIndXyR x _ _ => some x
  | .rrcIndXy x _ => some x
  | .rrcIndXyR x _ _ => some x
  | .rlIndXy x _ => some x
  | .rlIndXyR x _ _ => some x
  | .rrIndXy x _ => some x
  | .rrIndXyR x _ _ => some x
  | .slaIndXy x _ => some x
  | .slaIndXyR x _ _ => some x
  | .sraIndXy x _ => some x
  | .sraIndXyR x _ _ => some x
  | .sllIndXy x _ => some x
  | .sllIndXyR x _ _ => some x
  | .srlIndXy x _ => some x
  | .srlIndXyR x _ _ => some x
  | .bitBIndXy x _ _ => some x
  | .bitBIndXyAlias x _ _ _ => some x
  | .resBIndXy x _ _ => some x
  | .resBIndXyR x _ _ _ => some x
  | .setBIndXy x _ _ => some x
  | .setBIndXyR x _ _ _ => some x
  | .unaffected x _ => some x

/-- The bytes of an instruction, with the DD or FD byte of its mode in front (R131). -/
def encode (i : Instr) : List Byte :=
  match i.mode with
  | none => i.encodeOp
  | some x => x.prefixByte :: i.encodeOp

/-- Byte `k` of a word of `n` bytes whose first byte holds the most significant bits: the numbering of
spec/opcode_table.json. DEDUCED from its `fixed` and `fields` entries (log entry 1). -/
def tableByte (n w k : Nat) : Byte := BitVec.ofNat 8 (w / 2 ^ (8 * (n - 1 - k)))

/-- The bytes of an instruction of the opcode table whose bits are w (log entry 1). -/
def tableBytes (nbits w : Nat) : List Byte := (List.range (nbits / 8)).map (tableByte (nbits / 8) w)

/-- The index mode and the bytes its own step reads of an instruction of the opcode table, with zero bytes after those
the row has: a DD or FD byte in front of another byte is the prefix of the row (log entry 1). -/
def tableWindow (nbits w : Nat) : Option Index × List Byte :=
  match tableBytes nbits w with
  | b :: c :: bs =>
    if b = Index.ix.prefixByte then (some .ix, (c :: bs) ++ [0, 0, 0])
    else if b = Index.iy.prefixByte then (some .iy, (c :: bs) ++ [0, 0, 0])
    else (none, (b :: c :: bs) ++ [0, 0])
  | bs => (none, bs ++ [0, 0, 0])

/-- The instruction the decoder reads from a row's bits; none for a row of no bits. -/
def decodeTableWord (nbits w : Nat) : Option Instr :=
  if nbits / 8 = 0 then none
  else
    match decode (tableWindow nbits w).1 (tableWindow nbits w).2 with
    | .ok (i, _) => some i
    | .error _ => none

end Sys2Proof
end

