-- ==== Sys2Proof/Config.lean ====
section
/-! DEFINITION. What the spec leaves to the host or to the implementation: constants with no body, so that no proof can
see a value (spec/93_implementation_defined.md I8 and I11), and the byte that memory reads where nothing was written. -/

namespace Sys2Proof

/-- The byte a read of a port returns where the state does not say what the host answers: any value (I8). The first
argument counts the operations on the host before it, the second is the port (log entry 4). -/
opaque Config.freePortByte : Nat → Word → Byte

/-- The acknowledge datum where the state does not say what the host answers: any value (I8). The argument counts the
operations on the host before it (log entry 5). -/
opaque Config.freeAckDatum : Nat → Nat

/-- How far `MAX_DAISY` exceeds 3: the parameter is at least 3 and otherwise open (I11; log entry 12). -/
opaque Config.extraDaisy : Nat

/-- `MAX_DAISY`, the largest number of daisy-chain devices (R8, R500). -/
def Config.maxDaisy : Nat := Config.extraDaisy + 3

/-- What an address that no entry of the memory lists reads as. DESIGN CHOICE: the spec leaves the contents of memory
to the host (R73; log entry 3). -/
def Config.unlistedByte : Byte := 0

end Sys2Proof
end

