-- ==== Sys2Proof/Machine/State.lean ====
section
/-! DEFINITION. The state of the machine as plain data (spec/10_state.md), its reset value (R90), and the reasons a step
can stop: the core has none of its own (spec/60_exceptions.md R480). -/

namespace Sys2Proof.Machine

/-- The interrupt mode IM (R45): the value 3 does not exist. -/
inductive IMode where
  | im0 | im1 | im2
deriving DecidableEq, Repr

/-- The kind of a memory read (R102): of an opcode byte, of an operand byte of an instruction, or of data. -/
inductive ReadTag where
  | opcode | arg | data
deriving DecidableEq, Repr

/-- One operation of the core on its host: the five bus operations of R100 and the three device operations of R500. An
acknowledge datum is recorded as the host gave it, before R491 narrows it. -/
inductive BusEvent where
  | memRead (tag : ReadTag) (addr : Word) (v : Byte)
  | memWrite (addr : Word) (v : Byte)
  | portRead (port : Word) (v : Byte)
  | portWrite (port : Word) (v : Byte)
  | irqAck (line : Nat) (datum : Nat)
  | deviceEntry (d : Nat) (datum : Nat)
  | deviceReti (d : Nat)
  | deviceReset (d : Nat)
deriving DecidableEq, Repr

/-- Memory as the list of its bytes that differ from `Config.unlistedByte`, by rising address. -/
abbrev Memory := List Host.Cell

/-- Something the host does from inside an operation the core performs on it: it changes memory it owns (R114), or calls
a line setter, which for a chain carries a device's state report (R122, R558). What R558 forbids there cannot be
written. -/
inductive HostAct where
  | setMemory (a : Word) (v : Byte)
  | setNmiLine (level : Bool)
  | setIrqLine (line : Nat) (level : Bool) (report : Option (Nat × Byte))
deriving DecidableEq, Repr

/-- What the host does in one operation the core performs on it: the value a read returns, any value (R100, I8), or none
where the host answers from plain memory, or leaves the value open; and what it does besides, in order (log entry 4). -/
structure Callback where
  answer : Option Nat
  acts : List HostAct
deriving DecidableEq, Repr

/-- The part of the state that an operation on the host can change (R114, R122): memory, the interrupt lines and the
priority controller, and fields of the model's own that stand for the host. -/
structure Shared where
  /-- The 64 KiB memory space (R70). -/
  mem : Memory
  /-- The last level of the NMI line (R55). -/
  nmiLine : Bool
  /-- The latch of an NMI edge (R55). -/
  nmiPending : Bool
  /-- The last level of the IRQ line (R56). -/
  irqLine : Bool
  /-- The interrupt state of each daisy-chain device; its length is `N_DEV` (R57). -/
  intState : List Byte
  /-- The device whose request is serviced next (R57). -/
  requestDev : Option Nat
  /-- The highest-priority device under service (R57). -/
  serviceDev : Option Nat
  /-- The model's own: what the host will do in the operations to come, the next one first; in one past the end of the
  list it only answers (log entry 4). -/
  host : List Callback
  /-- The model's own: how many operations the core has performed on its host (log entry 8). -/
  calls : Nat
  /-- The model's own: the operations of the last step, oldest first (log entry 18). -/
  bus : List BusEvent
deriving DecidableEq, Repr

/-- Everything the core carries from one step to the next (R30 to R59, R68), the memory the host gives it (log entry
2), and fields of the model's own: those of `Shared`, and the cost of the last step. -/
structure State extends Shared where
  /-- A, the accumulator (R30). -/
  a : Byte
  /-- F, the flags (R50). -/
  f : Byte
  /-- B (R30). -/
  b : Byte
  /-- C (R30). -/
  c : Byte
  /-- D (R30). -/
  d : Byte
  /-- E (R30). -/
  e : Byte
  /-- H (R30). -/
  h : Byte
  /-- L (R30). -/
  l : Byte
  /-- AF2, the shadow of AF (R32). -/
  af2 : Word
  /-- BC2 (R32). -/
  bc2 : Word
  /-- DE2 (R32). -/
  de2 : Word
  /-- HL2 (R32). -/
  hl2 : Word
  /-- IX (R35). -/
  ix : Word
  /-- IY (R35). -/
  iy : Word
  /-- SP, the stack pointer (R36). -/
  sp : Word
  /-- PC, the program counter (R37). -/
  pc : Word
  /-- PREPC, the address of the instruction last started (R40). -/
  prepc : Word
  /-- I, the interrupt vector base (R41). -/
  i : Byte
  /-- R.count, bits 6:0 of the refresh register (R42). -/
  rCount : BitVec 7
  /-- R.b7, bit 7 of the refresh register (R42). -/
  rB7 : BitVec 1
  /-- IFF1 (R43). -/
  iff1 : Bool
  /-- IFF2 (R44). -/
  iff2 : Bool
  /-- IM (R45). -/
  im : IMode
  /-- HALT (R46). -/
  halt : Bool
  /-- INTDEFER: no interrupt is accepted in the next step (R58). -/
  intDefer : Bool
  /-- XYMODE: the index mode of the next opcode byte (R59). -/
  xyMode : Option Index
  /-- The model's own: the T-states of the last step (R560; log entry 14). -/
  cost : Nat
deriving DecidableEq, Repr

/-- Why a step stops with a fault: it never does. The core raises no exception (R480), every access is answered (R100)
and every byte sequence decodes (R147), so there is no constructor; nothing raises one. -/
inductive Fault where
deriving DecidableEq, Repr

/-- Why a step is refused. -/
inductive Refusal where
  /-- Raised by `exec` for an instruction that has no meaning yet; none is left, so nothing raises it. Safe: the model
  stops where the hardware goes on. -/
  | notModelled (mnemonic : String)
deriving DecidableEq, Repr

/-- The state after a reset with no daisy chain (R90, R540): the spec's own table; the rows it grounds in its decision
D4 are named in log entry 7, the model's own fields in log entry 8. -/
def State.reset : State where
  a := 0x00
  f := 0x40
  b := 0x00
  c := 0x00
  d := 0x00
  e := 0x00
  h := 0x00
  l := 0x00
  af2 := 0x0000
  bc2 := 0x0000
  de2 := 0x0000
  hl2 := 0x0000
  ix := 0xFFFF
  iy := 0xFFFF
  sp := 0x0000
  pc := 0x0000
  prepc := 0x0000
  i := 0x00
  rCount := 0
  rB7 := 0
  iff1 := false
  iff2 := false
  im := .im0
  halt := false
  nmiLine := false
  nmiPending := false
  irqLine := false
  intState := []
  requestDev := none
  serviceDev := none
  intDefer := false
  xyMode := none
  mem := []
  host := []
  calls := 0
  bus := []
  cost := 0

end Sys2Proof.Machine
end

