-- ==== Sys2Proof/Machine/Ops.lean ====
section
/-! DEFINITION. The operations every meaning is built from: memory, the interrupt lines and the controller, the host's
part in an operation, the bus primitives of spec/20_memory.md, the stack, instruction fetch, taking an interrupt, and the
halted cycle (spec/60_exceptions.md). -/

namespace Sys2Proof.Machine

/-- What a meaning answers: the outcome of a step. -/
abbrev Result := Host.Outcome State Fault Refusal

/-! ### Memory -/

/-- What address `a` reads as. -/
def Memory.read : Memory → Nat → Byte
  | [], _ => Config.unlistedByte
  | (k, v) :: m, a => if k = a then v else Memory.read m a

/-- Put a cell in front of the first cell of a higher address. -/
def Memory.insert (a : Nat) (v : Byte) : Memory → Memory
  | [] => [(a, v)]
  | (k, w) :: m => if a < k then (a, v) :: (k, w) :: m else (k, w) :: Memory.insert a v m

/-- Forget what is listed for address `a`. -/
def Memory.erase (m : Memory) (a : Nat) : Memory := m.filter fun cell => cell.1 != a

/-- Write a byte: the value an unlisted address reads as is not listed. -/
def Memory.write (m : Memory) (a : Nat) (v : Byte) : Memory :=
  if v = Config.unlistedByte then m.erase a else (m.erase a).insert a v

/-- Every address of the list is above `lo`, rising, inside the 64 KiB space (R70), and no listed byte is the one an
unlisted address reads as. -/
def Memory.wfAbove (lo : Nat) : Memory → Bool
  | [] => true
  | (k, v) :: m => lo ≤ k && k < 65536 && v != Config.unlistedByte && Memory.wfAbove (k + 1) m

/-- The canonical form of a memory: equal memories are equal lists. -/
def Memory.wf (m : Memory) : Bool := m.wfAbove 0

/-- The byte at an address, without a bus operation: the model's read of one byte. -/
def Shared.peek (h : Shared) (a : Word) : Byte := h.mem.read a.toNat

/-- Put a byte at an address, without a bus operation. -/
def Shared.poke (h : Shared) (a : Word) (v : Byte) : Shared := { h with mem := h.mem.write a.toNat v }

/-! ### The interrupt lines and the daisy-chain controller -/

/-- `N_DEV` (R500). -/
def Shared.nDev (h : Shared) : Nat := h.intState.length

/-- Bit REQ of a device's interrupt state (R504). -/
def devReq (v : Byte) : Bool := v.getLsbD 0

/-- Bit IEO of a device's interrupt state (R504). -/
def devIeo (v : Byte) : Bool := v.getLsbD 1

/-- The first device under service, counted from `d` (R502). -/
def firstIeo (d : Nat) : List Byte → Option Nat
  | [] => none
  | v :: vs => if devIeo v then some d else firstIeo (d + 1) vs

/-- The device whose request is granted, counted from `d` (R502). -/
def firstGrant (d : Nat) : List Byte → Option Nat
  | [] => none
  | v :: vs => if devIeo v then (if devReq v then some d else none) else if devReq v then some d else firstGrant (d + 1) vs

/-- `Recompute()` (R502). -/
def Shared.recompute (h : Shared) : Shared :=
  { h with requestDev := firstGrant 0 h.intState, serviceDev := firstIeo 0 h.intState }

/-- `IrqRequested()` (R485). -/
def Shared.irqRequested (h : Shared) : Bool := if h.nDev = 0 then h.irqLine else h.requestDev.isSome

/-- `set_nmi_line(state)`: a change from 0 to 1 latches an NMI (R483). -/
def Shared.setNmiLine (level : Bool) (h : Shared) : Shared :=
  if level = h.nmiLine then h else { h with nmiLine := level, nmiPending := h.nmiPending || level }

/-- A state report of device `d` (R501): ignored where it is not in the chain or reports nothing new. -/
def Shared.reportState (d : Nat) (v : Byte) (h : Shared) : Shared :=
  match h.intState[d]? with
  | none => h
  | some old => if old = v then h else { h with intState := h.intState.set d v }.recompute

/-- `set_irq_line(line, state)`, with the state report an assertion carries where a chain is configured (R484, R501). A
line other than 0 is refused. DESIGN CHOICE (log entry 22): with a chain, R501 gives every assertion a report; an
assertion without one is accepted here and records the level alone. -/
def Shared.setIrqLine (line : Nat) (level : Bool) (report : Option (Nat × Byte)) (h : Shared) : Option Shared :=
  if line ≠ 0 then none
  else if h.nDev = 0 || !level then some { h with irqLine := level }
  else
    match report with
    | some (d, v) => some ({ h with irqLine := level }.reportState d v)
    | none => some { h with irqLine := level }

/-! ### The host's part in an operation -/

/-- One thing the host does from inside an operation; a call that is refused changes nothing (R122, R558). -/
def Shared.act (h : Shared) : HostAct → Shared
  | .setMemory a v => h.poke a v
  | .setNmiLine level => h.setNmiLine level
  | .setIrqLine line level report => (h.setIrqLine line level report).getD h

/-- What the host does in the next operation: nothing but to answer, past the end of its list (log entry 4). -/
def Shared.callback (h : Shared) : Callback := h.host.headD { answer := none, acts := [] }

/-- An operation of the core on its host, the only way the core reaches anything outside itself (R100): a write stores
its byte, the operation is recorded (R115: in the order performed), and the host does what it does inside it. -/
def Shared.perform (h : Shared) (ev : BusEvent) : Shared :=
  h.callback.acts.foldl Shared.act
    { h with
      mem := match ev with
        | .memWrite a v => h.mem.write a.toNat v
        | _ => h.mem
      host := h.host.tail
      calls := h.calls + 1
      bus := h.bus ++ [ev] }

/-- The byte the host returns to a read of memory in the next operation: its own, or the one that stands there (R100,
R115). -/
def Shared.hear (h : Shared) (a : Word) : Byte :=
  match h.callback.answer with
  | some n => BitVec.ofNat 8 n
  | none => h.peek a

/-- The byte the host returns to a read of a port in the next operation: its own, or a free value (log entry 4). -/
def Shared.hearPort (h : Shared) (p : Word) : Byte :=
  match h.callback.answer with
  | some n => BitVec.ofNat 8 n
  | none => Config.freePortByte h.calls p

/-- The acknowledge datum the host returns in the next operation: its own, or a free value (log entry 5). -/
def Shared.hearDatum (h : Shared) : Nat :=
  match h.callback.answer with
  | some n => n
  | none => Config.freeAckDatum h.calls

/-- An operation on the host leaves all that is not shared with it alone. -/
def State.perform (s : State) (ev : BusEvent) : State := { s with toShared := s.toShared.perform ev }

/-! ### Bus primitives -/

/-- The cost of the step in T-states (R15). For an XY instruction the 4 of the prefix belong to the prefix's step. -/
def State.charge (s : State) (n : Nat) : State := { s with cost := n }

/-- `MemRead(a, 1)` (R106). -/
def memRead (a : Word) (s : State) : Byte × State := (s.hear a, s.perform (.memRead .data a (s.hear a)))

/-- `MemWrite(a, 1, v)` (R107). -/
def memWrite (a : Word) (v : Byte) (s : State) : State := s.perform (.memWrite a v)

/-- `MemRead16(a)`: the low byte first (R106). -/
def memRead16 (a : Word) (s : State) : Word × State :=
  match memRead a s with
  | (lo, s1) =>
    match memRead (a + 1) s1 with
    | (hi, s2) => (wordOf hi lo, s2)

/-- `MemWrite16(a, v)`: the low byte first (R107). -/
def memWrite16 (a : Word) (v : Word) (s : State) : State := memWrite (a + 1) (hiByte v) (memWrite a (loByte v) s)

/-- `Push16(v)`: the high byte first, at the higher address (R108). -/
def push16 (v : Word) (s : State) : State :=
  { memWrite (s.sp - 2) (loByte v) (memWrite (s.sp - 1) (hiByte v) s) with sp := s.sp - 2 }

/-- `Pop16()` (R109). -/
def pop16 (s : State) : Word × State :=
  match memRead16 s.sp s with
  | (v, s1) => (v, { s1 with sp := s.sp + 2 })

/-- `PortRead(p)` (R110). -/
def portRead (p : Word) (s : State) : Byte × State := (s.hearPort p, s.perform (.portRead p (s.hearPort p)))

/-- `PortWrite(p, v)` (R110). -/
def portWrite (p : Word) (v : Byte) (s : State) : State := s.perform (.portWrite p v)

/-- `IrqAck(line)` (R111). -/
def irqAck (line : Nat) (s : State) : Nat × State := (s.hearDatum, s.perform (.irqAck line s.hearDatum))

/-- `DeviceEntry(d)` (R503): the device may report its new state inside it (R501). -/
def deviceEntry (d : Nat) (s : State) : Nat × State := (s.hearDatum, s.perform (.deviceEntry d s.hearDatum))

/-- `DeviceReti(d)` (R505): the core changes no controller state itself; the device may report its new state. -/
def deviceReti (d : Nat) (s : State) : State := s.perform (.deviceReti d)

/-! ### The refresh register -/

/-- R as eight bits: `R.b7 ++ R.count` (R42). -/
def State.rValue (s : State) : Byte := s.rB7 ++ s.rCount

/-- Write all eight bits of R (R187). -/
def State.setR (s : State) (v : Byte) : State := { s with rCount := v.extractLsb' 0 7, rB7 := v.extractLsb' 7 1 }

/-! ### Instruction fetch -/

/-- `FetchOpcode()` without its value (R103): R.count modulo 128, R.b7 untouched (R42). DESIGN CHOICE (log entry 24):
`SEPARATE_FETCH_PATH` is the host's; here a read of any of the three kinds is answered from the one memory, unless the
host's answer for that operation is another. -/
def fetchOpcode (s : State) : State :=
  { s.perform (.memRead .opcode s.pc (s.hear s.pc)) with pc := s.pc + 1, rCount := s.rCount + 1 }

/-- `FetchArg()` without its value (R104): R is not changed. -/
def fetchArg (s : State) : State := { s.perform (.memRead .arg s.pc (s.hear s.pc)) with pc := s.pc + 1 }

/-- `n` opcode fetches. -/
def fetchOpcodes : Nat → State → State
  | 0, s => s
  | n + 1, s => fetchOpcodes n (fetchOpcode s)

/-- `n` argument fetches. -/
def fetchArgs : Nat → State → State
  | 0, s => s
  | n + 1, s => fetchArgs n (fetchArg s)

/-- The fetches of an instruction of a format: its opcode bytes, then its operand bytes (R131, R139). -/
def fetchBytes (fmt : Format) (s : State) : State := fetchArgs fmt.argReads (fetchOpcodes fmt.opcodeReads s)

/-- The instruction at PC in the index mode in force (R139), read from the bytes that the next fetches hear. Every byte
of an instruction is fetched before its first write (R553), and only those it needs are read from the bus (log entry
9). -/
def State.nextInstr (s : State) : Instr :=
  decodeWindow s.xyMode (s.hear s.pc) ((fetchArg s).hear (s.pc + 1)) ((fetchArgs 2 s).hear (s.pc + 2))
    ((fetchArgs 3 s).hear (s.pc + 3))

/-- The start of a step that fetches an opcode: XYMODE is read and reset, and PREPC is written unless the step follows
a prefix (R481, R40). -/
def State.startInstr (s : State) : State :=
  { s with prepc := if s.xyMode = none then s.pc else s.prepc, xyMode := none }

/-- The instruction the step runs, and the state in which its rule's effect begins. -/
def fetchInstr (s : State) : Instr × State := (s.nextInstr, fetchBytes s.nextInstr.format s.startInstr)

/-! ### Taking an interrupt -/

/-- `LeaveHalt()` (R489). -/
def leaveHalt (s : State) : State := if s.halt then { s with halt := false, pc := s.pc + 1 } else s

/-- What every acceptance that pushes does: save PC on the stack and enter a handler (R490 to R494). -/
def enterHandler (target : Word) (cost : Nat) (s : State) : State := { push16 s.pc s with pc := target, cost := cost }

/-- `AcceptNMI()` (R490). -/
def acceptNmi (s : State) : State :=
  enterHandler 0x0066 11 { leaveHalt { s with nmiPending := false } with iff1 := false }

/-- The acknowledge datum of a maskable acceptance (R491): from the device whose request is taken where a chain is
configured, in every mode; else from the interrupting device in modes 0 and 2; else 0. -/
def acknowledge (s : State) : Nat × State :=
  if s.nDev = 0 then
    match s.im with
    | .im0 => irqAck 0 s
    | .im1 => (0, s)
    | .im2 => irqAck 0 s
  else
    match s.requestDev with
    | some d => deviceEntry d { s with requestDev := none }
    | none => (0, s)

/-- `AcceptIM0(V)` (R493). -/
def acceptIm0 (v : BitVec 24) (s : State) : State :=
  if v.extractLsb' 16 8 = 0xCD then enterHandler (v.extractLsb' 0 16) 19 s
  else if v.extractLsb' 16 8 = 0xC3 then { s with pc := v.extractLsb' 0 16, cost := 12 }
  else enterHandler (v.extractLsb' 0 16 &&& 0x0038) 13 s

/-- `AcceptIM1(V)` (R492): V is ignored. -/
def acceptIm1 (s : State) : State := enterHandler 0x0038 13 s

/-- `AcceptIM2(V)` (R494): the push precedes the table read. -/
def acceptIm2 (v : BitVec 24) (s : State) : State :=
  match memRead16 (wordOf s.i (v.extractLsb' 0 8)) (push16 s.pc s) with
  | (target, s1) => { s1 with pc := target, cost := 19 }

/-- `AcceptIRQ()` (R491). -/
def acceptIrq (s : State) : State :=
  match acknowledge { leaveHalt s with iff1 := false, iff2 := false } with
  | (v, s1) =>
    match s1.im with
    | .im0 => acceptIm0 (BitVec.ofNat 24 v) s1
    | .im1 => acceptIm1 s1
    | .im2 => acceptIm2 (BitVec.ofNat 24 v) s1

/-- `HaltedCycle()` (R488): the byte read is ignored. -/
def haltedCycle (s : State) : State :=
  { s.perform (.memRead .opcode s.pc (s.hear s.pc)) with rCount := s.rCount + 1, cost := 4 }

/-- Returning from a handler (R436, R437): pop PC and copy IFF2 into IFF1. -/
def returnFromHandler (s : State) : State :=
  match pop16 s with
  | (target, s1) => { s1 with pc := target, iff1 := s.iff2 }

/-! ### The step, but for the instruction -/

/-- The model's record of a step starts empty: no bus operation, no cost. -/
def State.beginStep (s : State) : State := { s with bus := [], cost := 0 }

/-- INTDEFER is cleared by every step that accepts no interrupt (R58, R481). -/
def State.endDefer (s : State) : State := { s with intDefer := false }

/-- The steps that run no instruction (R481): acceptance of the NMI, of a maskable interrupt, or a halted cycle; none
where the step runs an instruction. -/
def nonInstructionStep (s : State) : Option State :=
  if !s.intDefer && s.nmiPending then some (acceptNmi s)
  else if !s.intDefer && s.iff1 && s.irqRequested then some (acceptIrq s)
  else if s.halt then some (haltedCycle s.endDefer)
  else none

/-- Put bytes at consecutive addresses (modulo 65536), without a bus operation. -/
def Shared.pokes (h : Shared) (a : Word) : List Byte → Shared
  | [] => h
  | v :: vs => (h.poke a v).pokes (a + 1) vs

/-- A state whose next step fetches an instruction of the opcode table: the bytes its own step reads stand at PC, the
host answers its fetches from memory and does nothing else in them, the mode its prefix would have selected is in
force, and no interrupt or halted cycle comes first (log entry 11). -/
def State.placeInstr (s : State) (nbits w : Nat) : State :=
  { s with
    mem := (s.pokes s.pc (tableWindow nbits w).2).mem
    host := List.replicate (((decodeTableWord nbits w).map Instr.stepLength).getD 0) { answer := none, acts := [] } ++ s.host
    xyMode := (tableWindow nbits w).1
    halt := false
    intDefer := true }

end Sys2Proof.Machine
end

