-- ==== Sys2Proof/Machine/Operands.lean ====
section
/-! DEFINITION. Reading and writing the operands an instruction names: registers, pairs and halves
(spec/10_state.md R30 to R35, spec/30_encoding.md R133 to R135) and the address of an indexed operand (R138). -/

namespace Sys2Proof.Machine

/-- AF (R30). -/
def State.af (s : State) : Word := wordOf s.a s.f

/-- BC (R30). -/
def State.bc (s : State) : Word := wordOf s.b s.c

/-- DE (R30). -/
def State.de (s : State) : Word := wordOf s.d s.e

/-- HL (R30). -/
def State.hl (s : State) : Word := wordOf s.h s.l

/-- Write A. -/
def State.setA (s : State) (v : Byte) : State := { s with a := v }

/-- Write all eight bits of F. -/
def State.setF (s : State) (v : Byte) : State := { s with f := v }

/-- Write B alone (R31). -/
def State.setB (s : State) (v : Byte) : State := { s with b := v }

/-- Write AF: both halves (R31). -/
def State.setAf (s : State) (v : Word) : State := { s with a := hiByte v, f := loByte v }

/-- Write BC (R31). -/
def State.setBc (s : State) (v : Word) : State := { s with b := hiByte v, c := loByte v }

/-- Write DE (R31). -/
def State.setDe (s : State) (v : Word) : State := { s with d := hiByte v, e := loByte v }

/-- Write HL (R31). -/
def State.setHl (s : State) (v : Word) : State := { s with h := hiByte v, l := loByte v }

/-- Write SP. -/
def State.setSp (s : State) (v : Word) : State := { s with sp := v }

/-- Write PC. -/
def State.setPc (s : State) (v : Word) : State := { s with pc := v }

/-- `r8[c]` (R133). -/
def State.r8 (s : State) : Reg8 → Byte
  | .b => s.b
  | .c => s.c
  | .d => s.d
  | .e => s.e
  | .h => s.h
  | .l => s.l
  | .a => s.a

/-- `r8[c] <- v`: the other half of the pair is untouched (R31). -/
def State.setR8 (s : State) (r : Reg8) (v : Byte) : State :=
  match r with
  | .b => { s with b := v }
  | .c => { s with c := v }
  | .d => { s with d := v }
  | .e => { s with e := v }
  | .h => { s with h := v }
  | .l => { s with l := v }
  | .a => { s with a := v }

/-- `rp[p]` (R134). -/
def State.rp (s : State) : RegP → Word
  | .bc => s.bc
  | .de => s.de
  | .hl => s.hl
  | .sp => s.sp

/-- `rp[p] <- v` (R134). -/
def State.setRp (s : State) (p : RegP) (v : Word) : State :=
  match p with
  | .bc => s.setBc v
  | .de => s.setDe v
  | .hl => s.setHl v
  | .sp => s.setSp v

/-- `rp2[p]` (R134). -/
def State.rq (s : State) : RegQ → Word
  | .bc => s.bc
  | .de => s.de
  | .hl => s.hl
  | .af => s.af

/-- `rp2[p] <- v` (R134). -/
def State.setRq (s : State) (q : RegQ) (v : Word) : State :=
  match q with
  | .bc => s.setBc v
  | .de => s.setDe v
  | .hl => s.setHl v
  | .af => s.setAf v

/-- `XY`: IX or IY (R11). -/
def State.xy (s : State) : Index → Word
  | .ix => s.ix
  | .iy => s.iy

/-- `XY <- v`. -/
def State.setXy (s : State) (x : Index) (v : Word) : State :=
  match x with
  | .ix => { s with ix := v }
  | .iy => { s with iy := v }

/-- `XYH` or `XYL` (R35). -/
def State.half (s : State) (x : Index) : Half → Byte
  | .high => hiByte (s.xy x)
  | .low => loByte (s.xy x)

/-- Write one half of an index register: the other is untouched (R31, R35). -/
def State.setHalf (s : State) (x : Index) (k : Half) (v : Byte) : State :=
  match k with
  | .high => s.setXy x (wordOf v (loByte (s.xy x)))
  | .low => s.setXy x (wordOf (hiByte (s.xy x)) v)

/-- A pair pp: the pair HL replaced by the index register (R134, R333). -/
def State.rx (s : State) (x : Index) : RegX → Word
  | .bc => s.bc
  | .de => s.de
  | .xy => s.xy x
  | .sp => s.sp

/-- An 8-bit register in index mode (R135, R188). -/
def State.ir8 (s : State) (x : Index) : IReg8 → Byte
  | .b => s.b
  | .c => s.c
  | .d => s.d
  | .e => s.e
  | .xh => s.half x .high
  | .xl => s.half x .low
  | .a => s.a

/-- Write an 8-bit register in index mode (R188). -/
def State.setIr8 (s : State) (x : Index) (p : IReg8) (v : Byte) : State :=
  match p with
  | .b => { s with b := v }
  | .c => { s with c := v }
  | .d => { s with d := v }
  | .e => { s with e := v }
  | .xh => s.setHalf x .high v
  | .xl => s.setHalf x .low v
  | .a => { s with a := v }

/-- The address of `(XY+d)` (R138). -/
def State.ea (s : State) (x : Index) (d : Byte) : Word := s.xy x + sext d

end Sys2Proof.Machine
end

