-- ==== Sys2Proof/Machine/Flags.lean ====
section
/-! DEFINITION. The flag register F: its bits (spec/10_state.md R50), the flag table functions (R60 to R66), and the
flag computations of spec/42_exchange_block.md to spec/49_io.md. Each computation answers a value of F, or a result
with one, from the values it is given. -/

namespace Sys2Proof.Machine

/-! ### The bits of F -/

/-- S, bit 7 (R50). -/
def flagS (f : Byte) : Bool := f.getLsbD 7

/-- Z, bit 6. -/
def flagZ (f : Byte) : Bool := f.getLsbD 6

/-- Y, bit 5. -/
def flagY (f : Byte) : Bool := f.getLsbD 5

/-- H, bit 4. -/
def flagH (f : Byte) : Bool := f.getLsbD 4

/-- X, bit 3. -/
def flagX (f : Byte) : Bool := f.getLsbD 3

/-- PV, bit 2. -/
def flagPV (f : Byte) : Bool := f.getLsbD 2

/-- N, bit 1. -/
def flagN (f : Byte) : Bool := f.getLsbD 1

/-- C, bit 0. -/
def flagC (f : Byte) : Bool := f.getLsbD 0

/-- The mask of S (R12). -/
def maskS : Byte := 0x80

/-- The mask of Z. -/
def maskZ : Byte := 0x40

/-- The mask of H. -/
def maskH : Byte := 0x10

/-- The mask of PV. -/
def maskPV : Byte := 0x04

/-- The mask of N. -/
def maskN : Byte := 0x02

/-- The mask of C. -/
def maskC : Byte := 0x01

/-- The masks of Y and X together. -/
def maskYX : Byte := 0x28

/-- The masks of S, Z and PV together. -/
def maskSZP : Byte := 0xC4

/-- A mask where a condition holds, else no bit. -/
def when (m : Byte) (p : Bool) : Byte := if p then m else 0

/-- `parity_even(v)`: an even number of 1 bits (R10). -/
def parityEven (v : Byte) : Bool :=
  !(v.getLsbD 0 ^^ v.getLsbD 1 ^^ v.getLsbD 2 ^^ v.getLsbD 3 ^^ v.getLsbD 4 ^^ v.getLsbD 5 ^^ v.getLsbD 6 ^^ v.getLsbD 7)

/-! ### The flag tables -/

/-- `SZ[v]` (R60). -/
def sz (v : Byte) : Byte := (v &&& maskS) ||| when maskZ (v == 0) ||| (v &&& maskYX)

/-- `SZ_BIT[v]` (R61). -/
def szBit (v : Byte) : Byte := if v = 0 then 0x44 else v &&& maskS

/-- `SZP[v]` (R62). -/
def szp (v : Byte) : Byte := sz v ||| when maskPV (parityEven v)

/-- `SZHV_inc[v]`, by the incremented result (R63). -/
def szhvInc (v : Byte) : Byte := sz v ||| when maskPV (v == 0x80) ||| when maskH (v &&& 0x0F == 0x00)

/-- `SZHV_dec[v]`, by the decremented result (R64). -/
def szhvDec (v : Byte) : Byte := sz v ||| maskN ||| when maskPV (v == 0x7F) ||| when maskH (v &&& 0x0F == 0x0F)

/-! ### 8-bit arithmetic and logic -/

/-- `ADD8(a, v, c)`: the result and F (R65). -/
def add8 (a v : Byte) (c : Bool) : Byte × Byte :=
  let wide := a.toNat + v.toNat + c.toNat
  let res := BitVec.ofNat 8 wide
  (res, sz res ||| ((a ^^^ v ^^^ res) &&& maskH) ||| when maskPV ((a ^^^ res) &&& (v ^^^ res) &&& maskS != 0)
    ||| when maskC (decide (wide > 255)))

/-- `SUB8(a, v, c)`: the result and F (R66). -/
def sub8 (a v : Byte) (c : Bool) : Byte × Byte :=
  let wide : Int := (a.toNat : Int) - v.toNat - c.toNat
  let res := BitVec.ofInt 8 wide
  (res, sz res ||| maskN ||| ((a ^^^ v ^^^ res) &&& maskH) ||| when maskPV ((a ^^^ v) &&& (a ^^^ res) &&& maskS != 0)
    ||| when maskC (decide (wide < 0)))

/-- `SZHVC_add[(c << 16) | (old << 8) | new]`: F of the one operand that takes `old` to `new` (R65). -/
def szhvcAdd (c : Bool) (old new : Byte) : Byte := (add8 old (new - old - when 1 c) c).2

/-- `SZHVC_sub`, by the same index (R66). -/
def szhvcSub (c : Bool) (old new : Byte) : Byte := (sub8 old (old - new - when 1 c) c).2

/-- `ALU8(y, v)` on the accumulator `a` and the old flags `f`: the new A and the new F (R240). -/
def alu8 (o : AluOp) (a f v : Byte) : Byte × Byte :=
  match o with
  | .add => add8 a v false
  | .adc => add8 a v (flagC f)
  | .sub => sub8 a v false
  | .sbc => sub8 a v (flagC f)
  | .and => (a &&& v, szp (a &&& v) ||| maskH)
  | .xor => (a ^^^ v, szp (a ^^^ v))
  | .or => (a ||| v, szp (a ||| v))
  | .cp => (a, ((sub8 a v false).2 &&& 0xD7) ||| (v &&& maskYX))

/-- `INC8(v)`: the result and F (R289). -/
def inc8 (f v : Byte) : Byte × Byte := (v + 1, (f &&& maskC) ||| szhvInc (v + 1))

/-- `DEC8(v)`: the result and F (R289). -/
def dec8 (f v : Byte) : Byte × Byte := (v - 1, (f &&& maskC) ||| szhvDec (v - 1))

/-! ### General-purpose arithmetic -/

/-- `DAA`: both corrections are decided from the original A; the result and F (R300). -/
def daa (a f : Byte) : Byte × Byte :=
  let lo := flagH f || decide ((a &&& 0x0F).toNat > 9)
  let hi := flagC f || decide (a.toNat > 0x99)
  let corr := when 0x06 lo + when 0x60 hi
  let t := if flagN f then a - corr else a + corr
  (t, (f &&& (maskC ||| maskN)) ||| when maskC (decide (a.toNat > 0x99)) ||| ((a ^^^ t) &&& maskH) ||| szp t)

/-- F after `CPL`, from the new A (R301). -/
def cplFlags (f a : Byte) : Byte := (f &&& (maskSZP ||| maskC)) ||| maskH ||| maskN ||| (a &&& maskYX)

/-- F after `CCF` (R303). -/
def ccfFlags (f a : Byte) : Byte :=
  ((f &&& (maskSZP ||| maskC)) ||| when maskH (flagC f) ||| (a &&& maskYX)) ^^^ maskC

/-- F after `SCF` (R304). -/
def scfFlags (f a : Byte) : Byte := (f &&& maskSZP) ||| maskC ||| (a &&& maskYX)

/-- F after `LD A,I` and `LD A,R`, from the new A and IFF2 (R184, R185). -/
def ldAirFlags (f a : Byte) (iff2 : Bool) : Byte := (f &&& maskC) ||| sz a ||| when maskPV iff2

/-- F after `IN r,(C)`, `RLD` and `RRD`, from a value (R451, R387). -/
def inFlags (f v : Byte) : Byte := (f &&& maskC) ||| szp v

/-! ### 16-bit arithmetic -/

/-- `ADD HL,ss` and `ADD XY,pp`: the result and F (R330, R333). -/
def add16 (f : Byte) (a b : Word) : Word × Byte :=
  let wide := a.toNat + b.toNat
  let r := BitVec.ofNat 16 wide
  (r, (f &&& maskSZP) ||| (hiByte (a ^^^ b ^^^ r) &&& maskH) ||| (hiByte r &&& maskYX)
    ||| when maskC (decide (wide > 65535)))

/-- `ADC HL,ss`: the result and F (R331). -/
def adc16 (f : Byte) (a b : Word) : Word × Byte :=
  let wide := a.toNat + b.toNat + (flagC f).toNat
  let r := BitVec.ofNat 16 wide
  (r, (hiByte r &&& (maskS ||| maskYX)) ||| when maskZ (r == 0) ||| (hiByte (a ^^^ b ^^^ r) &&& maskH)
    ||| when maskPV ((a ^^^ r) &&& (b ^^^ r) &&& 0x8000 != 0) ||| when maskC (decide (wide > 65535)))

/-- `SBC HL,ss`: the result and F (R332). -/
def sbc16 (f : Byte) (a b : Word) : Word × Byte :=
  let wide : Int := (a.toNat : Int) - b.toNat - (flagC f).toNat
  let r := BitVec.ofInt 16 wide
  (r, (hiByte r &&& (maskS ||| maskYX)) ||| when maskZ (r == 0) ||| (hiByte (a ^^^ b ^^^ r) &&& maskH)
    ||| when maskPV ((a ^^^ b) &&& (a ^^^ r) &&& 0x8000 != 0) ||| maskN ||| when maskC (decide (wide < 0)))

/-! ### Rotates and shifts -/

/-- The result of `ROT(y, v)` and the bit shifted out (R350). -/
def rotBits (o : RotOp) (c : Bool) (v : Byte) : Byte × Bool :=
  match o with
  | .rlc => ((v <<< 1) ||| (v >>> 7), v.getLsbD 7)
  | .rrc => ((v >>> 1) ||| (v <<< 7), v.getLsbD 0)
  | .rl => ((v <<< 1) ||| when 0x01 c, v.getLsbD 7)
  | .rr => ((v >>> 1) ||| when 0x80 c, v.getLsbD 0)
  | .sla => (v <<< 1, v.getLsbD 7)
  | .sra => ((v >>> 1) ||| (v &&& 0x80), v.getLsbD 0)
  | .sll => ((v <<< 1) ||| 0x01, v.getLsbD 7)
  | .srl => (v >>> 1, v.getLsbD 0)

/-- `ROT(y, v)`: the result and F (R350). -/
def rot (o : RotOp) (f v : Byte) : Byte × Byte :=
  match rotBits o (flagC f) v with
  | (res, out) => (res, szp res ||| when maskC out)

/-- The accumulator rotates: the new A and F, which keeps S, Z and PV (R351 to R354). -/
def rotAcc (o : RotOp) (a f : Byte) : Byte × Byte :=
  match rotBits o (flagC f) a with
  | (res, out) => (res, (f &&& maskSZP) ||| when maskC out ||| (res &&& maskYX))

/-! ### Single bits -/

/-- `1 << b` as a byte. -/
def bitMask (b : Fin 8) : Byte := 1 <<< b.val

/-- F after `BIT b` of a value, with Y and X copied from another byte (R400 to R402). -/
def bitFlags (f : Byte) (b : Fin 8) (v from_ : Byte) : Byte :=
  (f &&& maskC) ||| maskH ||| szBit (v &&& bitMask b) ||| (from_ &&& maskYX)

/-! ### Block instructions -/

/-- F after `LDI` and its kin, from A, the byte moved and the new BC (R225). -/
def ldBlockFlags (f a v : Byte) (bc : Word) : Byte :=
  let n := a + v
  (f &&& 0xC1) ||| when maskPV (bc != 0) ||| (n &&& 0x08) ||| when 0x20 (n.getLsbD 1)

/-- F after `CPI` and its kin, from A, the byte read and the new BC (R229). -/
def cpBlockFlags (f a v : Byte) (bc : Word) : Byte :=
  let res := a - v
  let h := (a ^^^ v ^^^ res) &&& maskH
  let n := res - when 1 (h != 0)
  (f &&& maskC) ||| (res &&& maskS) ||| when maskZ (res == 0) ||| h ||| maskN ||| when maskPV (bc != 0)
    ||| (n &&& 0x08) ||| when 0x20 (n.getLsbD 1)

/-- F after a block input or output, from the new B, the byte transferred and the sum k (R449). -/
def ioBlockFlags (b v : Byte) (k : Nat) : Byte :=
  sz b ||| when maskN (v.getLsbD 7) ||| when (maskH ||| maskC) (decide (k > 255))
    ||| when maskPV (parityEven (BitVec.ofNat 8 (k % 8) ^^^ b))

/-! ### Conditions -/

/-- `cond(cc)` (R420). -/
def condHolds (f : Byte) : Cond → Bool
  | .nz => !flagZ f
  | .z => flagZ f
  | .nc => !flagC f
  | .c => flagC f
  | .po => !flagPV f
  | .pe => flagPV f
  | .p => !flagS f
  | .m => flagS f

end Sys2Proof.Machine
end

