-- ==== Sys2Proof/Machine/Alu8.lean ====
section
/-! DEFINITION. The 8-bit arithmetic and logic group (spec/43_alu8.md R240 to R289). -/

namespace Sys2Proof.Machine

/-- `ALU8(y, v)` at a cost (R240). -/
def aluOn (o : AluOp) (v : Byte) (cost : Nat) (s : State) : State :=
  match alu8 o s.a s.f v with
  | (a, f) => ((s.setA a).setF f).charge cost

/-- `ALU8(y, MemRead(ea, 1))` at a cost. -/
def aluOnMem (o : AluOp) (ea : Word) (cost : Nat) (s : State) : State :=
  match memRead ea s with
  | (v, s1) => aluOn o v cost s1

/-- Replace the byte at an address by what a computation makes of it and of F, and write F: read, then write, of one
address (R282). -/
def modifyMem (g : Byte → Byte → Byte × Byte) (ea : Word) (cost : Nat) (s : State) : State :=
  match memRead ea s with
  | (v, s1) =>
    match g s.f v with
    | (res, f) => ((memWrite ea res s1).setF f).charge cost

/-- `ADD A,r` (R241). -/
def execAddAR (r : Reg8) (s : State) : Result := .next (aluOn .add (s.r8 r) 4 s)

/-- `ADD A,n` (R242). -/
def execAddAN (n : Byte) (s : State) : Result := .next (aluOn .add n 7 s)

/-- `ADD A,(HL)` (R243). -/
def execAddAIndHl (s : State) : Result := .next (aluOnMem .add s.hl 7 s)

/-- `ADD A,(XY+d)` (R244). -/
def execAddAIndXy (x : Index) (d : Byte) (s : State) : Result := .next (aluOnMem .add (s.ea x d) 15 s)

/-- `ADD A,XYh/XYl` (R245). -/
def execAddAXyHalf (x : Index) (k : Half) (s : State) : Result := .next (aluOn .add (s.half x k) 4 s)

/-- `ADC A,r` (R246). -/
def execAdcAR (r : Reg8) (s : State) : Result := .next (aluOn .adc (s.r8 r) 4 s)

/-- `ADC A,n` (R247). -/
def execAdcAN (n : Byte) (s : State) : Result := .next (aluOn .adc n 7 s)

/-- `ADC A,(HL)` (R248). -/
def execAdcAIndHl (s : State) : Result := .next (aluOnMem .adc s.hl 7 s)

/-- `ADC A,(XY+d)` (R249). -/
def execAdcAIndXy (x : Index) (d : Byte) (s : State) : Result := .next (aluOnMem .adc (s.ea x d) 15 s)

/-- `ADC A,XYh/XYl` (R250). -/
def execAdcAXyHalf (x : Index) (k : Half) (s : State) : Result := .next (aluOn .adc (s.half x k) 4 s)

/-- `SUB r` (R251). -/
def execSubR (r : Reg8) (s : State) : Result := .next (aluOn .sub (s.r8 r) 4 s)

/-- `SUB n` (R252). -/
def execSubN (n : Byte) (s : State) : Result := .next (aluOn .sub n 7 s)

/-- `SUB (HL)` (R253). -/
def execSubIndHl (s : State) : Result := .next (aluOnMem .sub s.hl 7 s)

/-- `SUB (XY+d)` (R254). -/
def execSubIndXy (x : Index) (d : Byte) (s : State) : Result := .next (aluOnMem .sub (s.ea x d) 15 s)

/-- `SUB XYh/XYl` (R255). -/
def execSubXyHalf (x : Index) (k : Half) (s : State) : Result := .next (aluOn .sub (s.half x k) 4 s)

/-- `SBC A,r` (R256). -/
def execSbcAR (r : Reg8) (s : State) : Result := .next (aluOn .sbc (s.r8 r) 4 s)

/-- `SBC A,n` (R257). -/
def execSbcAN (n : Byte) (s : State) : Result := .next (aluOn .sbc n 7 s)

/-- `SBC A,(HL)` (R258). -/
def execSbcAIndHl (s : State) : Result := .next (aluOnMem .sbc s.hl 7 s)

/-- `SBC A,(XY+d)` (R259). -/
def execSbcAIndXy (x : Index) (d : Byte) (s : State) : Result := .next (aluOnMem .sbc (s.ea x d) 15 s)

/-- `SBC A,XYh/XYl` (R260). -/
def execSbcAXyHalf (x : Index) (k : Half) (s : State) : Result := .next (aluOn .sbc (s.half x k) 4 s)

/-- `AND r` (R261). -/
def execAndR (r : Reg8) (s : State) : Result := .next (aluOn .and (s.r8 r) 4 s)

/-- `AND n` (R262). -/
def execAndN (n : Byte) (s : State) : Result := .next (aluOn .and n 7 s)

/-- `AND (HL)` (R263). -/
def execAndIndHl (s : State) : Result := .next (aluOnMem .and s.hl 7 s)

/-- `AND (XY+d)` (R264). -/
def execAndIndXy (x : Index) (d : Byte) (s : State) : Result := .next (aluOnMem .and (s.ea x d) 15 s)

/-- `AND XYh/XYl` (R265). -/
def execAndXyHalf (x : Index) (k : Half) (s : State) : Result := .next (aluOn .and (s.half x k) 4 s)

/-- `XOR r` (R266). -/
def execXorR (r : Reg8) (s : State) : Result := .next (aluOn .xor (s.r8 r) 4 s)

/-- `XOR n` (R267). -/
def execXorN (n : Byte) (s : State) : Result := .next (aluOn .xor n 7 s)

/-- `XOR (HL)` (R268). -/
def execXorIndHl (s : State) : Result := .next (aluOnMem .xor s.hl 7 s)

/-- `XOR (XY+d)` (R269). -/
def execXorIndXy (x : Index) (d : Byte) (s : State) : Result := .next (aluOnMem .xor (s.ea x d) 15 s)

/-- `XOR XYh/XYl` (R270). -/
def execXorXyHalf (x : Index) (k : Half) (s : State) : Result := .next (aluOn .xor (s.half x k) 4 s)

/-- `OR r` (R271). -/
def execOrR (r : Reg8) (s : State) : Result := .next (aluOn .or (s.r8 r) 4 s)

/-- `OR n` (R272). -/
def execOrN (n : Byte) (s : State) : Result := .next (aluOn .or n 7 s)

/-- `OR (HL)` (R273). -/
def execOrIndHl (s : State) : Result := .next (aluOnMem .or s.hl 7 s)

/-- `OR (XY+d)` (R274). -/
def execOrIndXy (x : Index) (d : Byte) (s : State) : Result := .next (aluOnMem .or (s.ea x d) 15 s)

/-- `OR XYh/XYl` (R275). -/
def execOrXyHalf (x : Index) (k : Half) (s : State) : Result := .next (aluOn .or (s.half x k) 4 s)

/-- `CP r` (R276). -/
def execCpR (r : Reg8) (s : State) : Result := .next (aluOn .cp (s.r8 r) 4 s)

/-- `CP n` (R277). -/
def execCpN (n : Byte) (s : State) : Result := .next (aluOn .cp n 7 s)

/-- `CP (HL)` (R278). -/
def execCpIndHl (s : State) : Result := .next (aluOnMem .cp s.hl 7 s)

/-- `CP (XY+d)` (R279). -/
def execCpIndXy (x : Index) (d : Byte) (s : State) : Result := .next (aluOnMem .cp (s.ea x d) 15 s)

/-- `CP XYh/XYl` (R280). -/
def execCpXyHalf (x : Index) (k : Half) (s : State) : Result := .next (aluOn .cp (s.half x k) 4 s)

/-- `INC r` (R281). -/
def execIncR (r : Reg8) (s : State) : Result := 
  match inc8 s.f (s.r8 r) with
  | (v, f) => .next (((s.setR8 r v).setF f).charge 4)

/-- `INC (HL)` (R282). -/
def execIncIndHl (s : State) : Result := .next (modifyMem inc8 s.hl 11 s)

/-- `INC (XY+d)` (R283). -/
def execIncIndXy (x : Index) (d : Byte) (s : State) : Result := .next (modifyMem inc8 (s.ea x d) 19 s)

/-- `INC XYh/XYl` (R284): no carry passes to the other half. -/
def execIncXyHalf (x : Index) (k : Half) (s : State) : Result := 
  match inc8 s.f (s.half x k) with
  | (v, f) => .next (((s.setHalf x k v).setF f).charge 4)

/-- `DEC r` (R285). -/
def execDecR (r : Reg8) (s : State) : Result := 
  match dec8 s.f (s.r8 r) with
  | (v, f) => .next (((s.setR8 r v).setF f).charge 4)

/-- `DEC (HL)` (R286). -/
def execDecIndHl (s : State) : Result := .next (modifyMem dec8 s.hl 11 s)

/-- `DEC (XY+d)` (R287). -/
def execDecIndXy (x : Index) (d : Byte) (s : State) : Result := .next (modifyMem dec8 (s.ea x d) 19 s)

/-- `DEC XYh/XYl` (R288): no carry passes to the other half. -/
def execDecXyHalf (x : Index) (k : Half) (s : State) : Result := 
  match dec8 s.f (s.half x k) with
  | (v, f) => .next (((s.setHalf x k v).setF f).charge 4)

end Sys2Proof.Machine
end

