-- ==== Sys2Proof/Machine/Arith16.lean ====
section
/-! DEFINITION. The 16-bit arithmetic group (spec/45_arith16.md R330 to R338). -/

namespace Sys2Proof.Machine

/-- `ADD HL,ss` (R330). -/
def execAddHlSs (ss : RegP) (s : State) : Result := 
  match add16 s.f s.hl (s.rp ss) with
  | (v, f) => .next (((s.setHl v).setF f).charge 11)

/-- `ADC HL,ss` (R331). -/
def execAdcHlSs (ss : RegP) (s : State) : Result := 
  match adc16 s.f s.hl (s.rp ss) with
  | (v, f) => .next (((s.setHl v).setF f).charge 15)

/-- `SBC HL,ss` (R332). -/
def execSbcHlSs (ss : RegP) (s : State) : Result := 
  match sbc16 s.f s.hl (s.rp ss) with
  | (v, f) => .next (((s.setHl v).setF f).charge 15)

/-- `ADD XY,pp` (R333). -/
def execAddXyPp (x : Index) (pp : RegX) (s : State) : Result := 
  match add16 s.f (s.xy x) (s.rx x pp) with
  | (v, f) => .next (((s.setXy x v).setF f).charge 11)

/-- `INC ss` (R334). -/
def execIncSs (ss : RegP) (s : State) : Result := .next ((s.setRp ss (s.rp ss + 1)).charge 6)

/-- `INC XY` (R335). -/
def execIncXy (x : Index) (s : State) : Result := .next ((s.setXy x (s.xy x + 1)).charge 6)

/-- `DEC ss` (R336). -/
def execDecSs (ss : RegP) (s : State) : Result := .next ((s.setRp ss (s.rp ss - 1)).charge 6)

/-- `DEC XY` (R337). -/
def execDecXy (x : Index) (s : State) : Result := .next ((s.setXy x (s.xy x - 1)).charge 6)

end Sys2Proof.Machine
end

