-- ==== Sys2Proof/Machine/Bit.lean ====
section
/-! DEFINITION. The bit test, set and reset group (spec/47_bit.md R400 to R410). -/

namespace Sys2Proof.Machine

/-- `BIT b,(XY+d)`: Y and X come from the high byte of the address (R402). -/
def testBitIndexed (x : Index) (d : Byte) (b : Fin 8) (s : State) : State :=
  match memRead (s.ea x d) s with
  | (v, s1) => (s1.setF (bitFlags s.f b v (hiByte (s.ea x d)))).charge 16

/-- Replace the byte at an address by what a computation makes of it; no flag changes (R404, R408). -/
def changeMem (g : Byte → Byte) (ea : Word) (cost : Nat) (s : State) : State :=
  match memRead ea s with
  | (v, s1) => (memWrite ea (g v) s1).charge cost

/-- The same with a copy of the result in a register (R406, R410). -/
def changeMemCopy (g : Byte → Byte) (ea : Word) (r : Reg8) (s : State) : State :=
  match memRead ea s with
  | (v, s1) => ((memWrite ea (g v) s1).setR8 r (g v)).charge 19

/-- `v | (1 << b)` (R403). -/
def withBit (b : Fin 8) (v : Byte) : Byte := v ||| bitMask b

/-- `v & ~(1 << b)` (R407). -/
def withoutBit (b : Fin 8) (v : Byte) : Byte := v &&& ~~~(bitMask b)

/-- `BIT b,r` (R400). -/
def execBitBR (b : Fin 8) (r : Reg8) (s : State) : Result := .next ((s.setF (bitFlags s.f b (s.r8 r) (s.r8 r))).charge 8)

/-- `BIT b,(HL)` (R401). -/
def execBitBIndHl (b : Fin 8) (s : State) : Result := 
  match memRead s.hl s with
  | (v, s1) => .next ((s1.setF (bitFlags s.f b v v)).charge 12)

/-- `BIT b,(XY+d)` (R402). -/
def execBitBIndXy (x : Index) (d : Byte) (b : Fin 8) (s : State) : Result := .next (testBitIndexed x d b s)

/-- `BIT b,(XY+d) (alias)` (R402). -/
def execBitBIndXyAlias (x : Index) (d : Byte) (b : Fin 8) (_z : Fin 8) (s : State) : Result := .next (testBitIndexed x d b s)

/-- `SET b,r` (R403). -/
def execSetBR (b : Fin 8) (r : Reg8) (s : State) : Result := .next ((s.setR8 r (withBit b (s.r8 r))).charge 8)

/-- `SET b,(HL)` (R404). -/
def execSetBIndHl (b : Fin 8) (s : State) : Result := .next (changeMem (withBit b) s.hl 15 s)

/-- `SET b,(XY+d)` (R405). -/
def execSetBIndXy (x : Index) (d : Byte) (b : Fin 8) (s : State) : Result := .next (changeMem (withBit b) (s.ea x d) 19 s)

/-- `SET b,(XY+d),r` (R406). -/
def execSetBIndXyR (x : Index) (d : Byte) (b : Fin 8) (r : Reg8) (s : State) : Result := .next (changeMemCopy (withBit b) (s.ea x d) r s)

/-- `RES b,r` (R407). -/
def execResBR (b : Fin 8) (r : Reg8) (s : State) : Result := .next ((s.setR8 r (withoutBit b (s.r8 r))).charge 8)

/-- `RES b,(HL)` (R408). -/
def execResBIndHl (b : Fin 8) (s : State) : Result := .next (changeMem (withoutBit b) s.hl 15 s)

/-- `RES b,(XY+d)` (R409). -/
def execResBIndXy (x : Index) (d : Byte) (b : Fin 8) (s : State) : Result := .next (changeMem (withoutBit b) (s.ea x d) 19 s)

/-- `RES b,(XY+d),r` (R410). -/
def execResBIndXyR (x : Index) (d : Byte) (b : Fin 8) (r : Reg8) (s : State) : Result := .next (changeMemCopy (withoutBit b) (s.ea x d) r s)

end Sys2Proof.Machine
end

