-- ==== Sys2Proof/Machine/Block.lean ====
section
/-! DEFINITION. The exchange, block transfer and block search group (spec/42_exchange_block.md R220 to R232). A repeating
instruction runs one iteration in a step and goes back onto its own first byte (R554). -/

namespace Sys2Proof.Machine

/-- `EX DE,HL` (R220). -/
def execExDeHl (s : State) : Result := .next (((s.setDe s.hl).setHl s.de).charge 4)

/-- `EX AF,AF'` (R221). -/
def execExAfAf2 (s : State) : Result := .next (State.charge { s.setAf s.af2 with af2 := s.af } 4)

/-- `EXX` (R222). -/
def execExx (s : State) : Result := .next (State.charge { ((s.setBc s.bc2).setDe s.de2).setHl s.hl2 with bc2 := s.bc, de2 := s.de, hl2 := s.hl } 4)

/-- Exchange a word with the one on top of the stack: read low, read high, write high, write low (R223). The old top
of the stack and the state after. -/
def exchangeTop (v : Word) (s : State) : Word × State :=
  match memRead16 s.sp s with
  | (top, s1) => (top, memWrite s.sp (loByte v) (memWrite (s.sp + 1) (hiByte v) s1))

/-- `EX (SP),HL` (R223). -/
def execExSpHl (s : State) : Result := 
  match exchangeTop s.hl s with
  | (v, s1) => .next ((s1.setHl v).charge 19)

/-- `EX (SP),XY` (R224). -/
def execExSpXy (x : Index) (s : State) : Result := 
  match exchangeTop (s.xy x) s with
  | (v, s1) => .next ((s1.setXy x v).charge 19)

/-- One block transfer; the pointers move by `dir`, 1 or -1 (R225, R227). -/
def blockLoad (dir : Word) (s : State) : State :=
  match memRead s.hl s with
  | (v, s1) =>
    ((((memWrite s.de v s1).setHl (s.hl + dir)).setDe (s.de + dir)).setBc (s.bc - 1)).setF
      (ldBlockFlags s.f s.a v (s.bc - 1))

/-- One block comparison; HL moves by `dir` (R229, R231). -/
def blockCompare (dir : Word) (s : State) : State :=
  match memRead s.hl s with
  | (v, s1) => ((s1.setHl (s.hl + dir)).setBc (s.bc - 1)).setF (cpBlockFlags s.f s.a v (s.bc - 1))

/-- The end of an iteration of a repeating instruction: back onto its first byte at 21 T-states, or on at 16 (R226). -/
def repeatIf (again : Bool) (s : State) : State :=
  if again then (s.setPc (s.pc - 2)).charge 21 else s.charge 16

/-- A block transfer repeats until BC is 0 (R226). -/
def repeatLoad (s : State) : State := repeatIf (s.bc != 0) s

/-- A block comparison repeats until a match or until BC is 0 (R230). -/
def repeatCompare (s : State) : State := repeatIf (s.bc != 0 && !flagZ s.f) s

/-- `LDI` (R225). -/
def execLdi (s : State) : Result := .next ((blockLoad 1 s).charge 16)

/-- `LDIR` (R226). -/
def execLdir (s : State) : Result := .next (repeatLoad (blockLoad 1 s))

/-- `LDD` (R227). -/
def execLdd (s : State) : Result := .next ((blockLoad (-1) s).charge 16)

/-- `LDDR` (R228). -/
def execLddr (s : State) : Result := .next (repeatLoad (blockLoad (-1) s))

/-- `CPI` (R229). -/
def execCpi (s : State) : Result := .next ((blockCompare 1 s).charge 16)

/-- `CPIR` (R230). -/
def execCpir (s : State) : Result := .next (repeatCompare (blockCompare 1 s))

/-- `CPD` (R231). -/
def execCpd (s : State) : Result := .next ((blockCompare (-1) s).charge 16)

/-- `CPDR` (R232). -/
def execCpdr (s : State) : Result := .next (repeatCompare (blockCompare (-1) s))

end Sys2Proof.Machine
end

