-- ==== Sys2Proof/Machine/General.lean ====
section
/-! DEFINITION. General-purpose arithmetic and CPU control (spec/44_gp_arith_cpu_control.md R300 to R313). -/

namespace Sys2Proof.Machine

/-- `DAA` (R300). -/
def execDaa (s : State) : Result := 
  match daa s.a s.f with
  | (a, f) => .next (((s.setA a).setF f).charge 4)

/-- `CPL` (R301). -/
def execCpl (s : State) : Result := .next (((s.setA (~~~s.a)).setF (cplFlags s.f (~~~s.a))).charge 4)

/-- A <- 0 - A with the flags of the subtraction (R302). -/
def negate (s : State) : State :=
  match sub8 0 s.a false with
  | (a, f) => ((s.setA a).setF f).charge 8

/-- `NEG` (R302). -/
def execNeg (s : State) : Result := .next (negate s)

/-- `NEG (alias)` (R302). -/
def execNegAlias (_y : Fin 8) (s : State) : Result := .next (negate s)

/-- `CCF` (R303). -/
def execCcf (s : State) : Result := .next ((s.setF (ccfFlags s.f s.a)).charge 4)

/-- `SCF` (R304). -/
def execScf (s : State) : Result := .next ((s.setF (scfFlags s.f s.a)).charge 4)

/-- `NOP` (R305). -/
def execNop (s : State) : Result := .next (s.charge 4)

/-- `HALT` (R306): PC goes back onto its own opcode. -/
def execHalt (s : State) : Result := .next (State.charge { s with halt := true, pc := s.pc - 1 } 4)

/-- `DI` (R307). -/
def execDi (s : State) : Result := .next (State.charge { s with iff1 := false, iff2 := false } 4)

/-- `EI` (R308): the next step accepts no interrupt. -/
def execEi (s : State) : Result := .next (State.charge { s with iff1 := true, iff2 := true, intDefer := true } 4)

/-- Select an interrupt mode (R309 to R311). -/
def setMode (m : IMode) (s : State) : State := State.charge { s with im := m } 8

/-- `IM 0` (R309). -/
def execIm0 (s : State) : Result := .next (setMode .im0 s)

/-- `IM 0 (alias)` (R309). -/
def execIm0Alias (_y : Fin 8) (s : State) : Result := .next (setMode .im0 s)

/-- `IM 1` (R310). -/
def execIm1 (s : State) : Result := .next (setMode .im1 s)

/-- `IM 1 (alias)` (R310). -/
def execIm1Alias (s : State) : Result := .next (setMode .im1 s)

/-- `IM 2` (R311). -/
def execIm2 (s : State) : Result := .next (setMode .im2 s)

/-- `IM 2 (alias)` (R311). -/
def execIm2Alias (s : State) : Result := .next (setMode .im2 s)

/-- `ED-NOP` (R312): nothing but the two opcode fetches. -/
def execEdNop (_o : Byte) (s : State) : Result := .next (s.charge 8)

/-- The DD or FD prefix step: the next opcode byte is decoded in an index mode and no interrupt comes first (R313). -/
def selectIndex (x : Index) (s : State) : State := State.charge { s with xyMode := some x, intDefer := true } 4

/-- `PREFIX IX (DD)` (R313). -/
def execPrefixIx (s : State) : Result := .next (selectIndex .ix s)

/-- `PREFIX IY (FD)` (R313). -/
def execPrefixIy (s : State) : Result := .next (selectIndex .iy s)

end Sys2Proof.Machine
end

