-- ==== Sys2Proof/Machine/Io.lean ====
section
/-! DEFINITION. The input and output group (spec/49_io.md R449 to R463). -/

namespace Sys2Proof.Machine

/-- `IN A,(n)` (R450). -/
def execInAN (n : Byte) (s : State) : Result := 
  match portRead (wordOf s.a n) s with
  | (v, s1) => .next ((s1.setA v).charge 11)

/-- `IN r,(C)` (R451). -/
def execInRC (r : Reg8) (s : State) : Result := 
  match portRead s.bc s with
  | (v, s1) => .next (((s1.setR8 r v).setF (inFlags s.f v)).charge 12)

/-- `IN (C)` (R452): the byte read goes nowhere but to F. -/
def execInC (s : State) : Result := 
  match portRead s.bc s with
  | (v, s1) => .next ((s1.setF (inFlags s.f v)).charge 12)

/-- `OUT (n),A` (R457). -/
def execOutNA (n : Byte) (s : State) : Result := .next ((portWrite (wordOf s.a n) s.a s).charge 11)

/-- `OUT (C),r` (R458). -/
def execOutCR (r : Reg8) (s : State) : Result := .next ((portWrite s.bc (s.r8 r) s).charge 12)

/-- `OUT (C),0` (R459). -/
def execOutC0 (s : State) : Result := .next ((portWrite s.bc 0x00 s).charge 12)

/-- `BlockIO(dir, false)`: the port address uses B before the decrement (R449). -/
def blockIn (dir : Word) (s : State) : State :=
  match portRead s.bc s with
  | (v, s1) =>
    (((memWrite s.hl v s1).setB (s.b - 1)).setHl (s.hl + dir)).setF
      (ioBlockFlags (s.b - 1) v (v.toNat + (s.c + loByte dir).toNat))

/-- `BlockIO(dir, true)`: the port address uses B after the decrement (R449). -/
def blockOut (dir : Word) (s : State) : State :=
  match memRead s.hl s with
  | (v, s1) =>
    (((portWrite (wordOf (s.b - 1) s.c) v s1).setB (s.b - 1)).setHl (s.hl + dir)).setF
      (ioBlockFlags (s.b - 1) v (v.toNat + (loByte (s.hl + dir)).toNat))

/-- A block input or output repeats until B is 0 (R454). -/
def repeatIo (s : State) : State := repeatIf (s.b != 0) s

/-- `INI` (R453). -/
def execIni (s : State) : Result := .next ((blockIn 1 s).charge 16)

/-- `IND` (R455). -/
def execInd (s : State) : Result := .next ((blockIn (-1) s).charge 16)

/-- `OUTI` (R460). -/
def execOuti (s : State) : Result := .next ((blockOut 1 s).charge 16)

/-- `OUTD` (R462). -/
def execOutd (s : State) : Result := .next ((blockOut (-1) s).charge 16)

/-- `INIR` (R454). -/
def execInir (s : State) : Result := .next (repeatIo (blockIn 1 s))

/-- `INDR` (R456). -/
def execIndr (s : State) : Result := .next (repeatIo (blockIn (-1) s))

/-- `OTIR` (R461). -/
def execOtir (s : State) : Result := .next (repeatIo (blockOut 1 s))

/-- `OTDR` (R463). -/
def execOtdr (s : State) : Result := .next (repeatIo (blockOut (-1) s))

end Sys2Proof.Machine
end

