-- ==== Sys2Proof/Machine/Jump.lean ====
section
/-! DEFINITION. The jump, call, return and restart group (spec/48_jump_call_return.md R420 to R438). PC is the address of the
next instruction when a meaning starts. -/

namespace Sys2Proof.Machine

/-- A relative jump if a condition holds, at one cost if taken and another if not (R425). -/
def jumpRelIf (taken : Bool) (e : Byte) (s : State) : State :=
  if taken then (s.setPc (s.pc + sext e)).charge 12 else s.charge 7

/-- Push the address of the next instruction and jump (R432). -/
def callTo (target : Word) (cost : Nat) (s : State) : State := ((push16 s.pc s).setPc target).charge cost

/-- `PC <- Pop16()` at a cost (R434). -/
def returnTo (cost : Nat) (s : State) : State :=
  match pop16 s with
  | (target, s1) => (s1.setPc target).charge cost

/-- `JP nn` (R422). -/
def execJpNn (nn : Word) (s : State) : Result := .next ((s.setPc nn).charge 10)

/-- `JP cc,nn` (R423). -/
def execJpCcNn (cc : Cond) (nn : Word) (s : State) : Result := .next ((if condHolds s.f cc then s.setPc nn else s).charge 10)

/-- `JR e` (R424). -/
def execJr (e : Byte) (s : State) : Result := .next ((s.setPc (s.pc + sext e)).charge 12)

/-- `JR NZ,e` (R425). -/
def execJrNz (e : Byte) (s : State) : Result := .next (jumpRelIf (!flagZ s.f) e s)

/-- `JR Z,e` (R426). -/
def execJrZ (e : Byte) (s : State) : Result := .next (jumpRelIf (flagZ s.f) e s)

/-- `JR NC,e` (R427). -/
def execJrNc (e : Byte) (s : State) : Result := .next (jumpRelIf (!flagC s.f) e s)

/-- `JR C,e` (R428). -/
def execJrC (e : Byte) (s : State) : Result := .next (jumpRelIf (flagC s.f) e s)

/-- `JP (HL)` (R429). -/
def execJpHl (s : State) : Result := .next ((s.setPc s.hl).charge 4)

/-- `JP (XY)` (R430). -/
def execJpXy (x : Index) (s : State) : Result := .next ((s.setPc (s.xy x)).charge 4)

/-- `DJNZ e` (R431). -/
def execDjnz (e : Byte) (s : State) : Result := 
  if s.b - 1 = 0 then .next ((s.setB (s.b - 1)).charge 8)
  else .next (((s.setB (s.b - 1)).setPc (s.pc + sext e)).charge 13)

/-- `CALL nn` (R432). -/
def execCallNn (nn : Word) (s : State) : Result := .next (callTo nn 17 s)

/-- `CALL cc,nn` (R433). -/
def execCallCcNn (cc : Cond) (nn : Word) (s : State) : Result := .next (if condHolds s.f cc then callTo nn 17 s else s.charge 10)

/-- `RST p` (R438). -/
def execRst (t : Fin 8) (s : State) : Result := .next (callTo (BitVec.ofNat 16 (8 * t.val)) 11 s)

/-- `RET` (R434). -/
def execRet (s : State) : Result := .next (returnTo 10 s)

/-- `RET cc` (R435). -/
def execRetCc (cc : Cond) (s : State) : Result := .next (if condHolds s.f cc then returnTo 11 s else s.charge 5)

/-- RETI tells the device under service, if a chain is configured and there is one (R436, R505): the one the controller
names after the stack reads, so a report the host makes inside them counts (DEDUCED from the order of R436; log entry
6). -/
def notifyReti (s : State) : State :=
  if s.nDev = 0 then s
  else
    match s.serviceDev with
    | some d => deviceReti d s
    | none => s

/-- `RETI` (R436). -/
def execReti (s : State) : Result := .next ((notifyReti (returnFromHandler s)).charge 14)

/-- `RETN` (R437). -/
def execRetn (s : State) : Result := .next ((returnFromHandler s).charge 14)

/-- `RETN (alias)` (R437). -/
def execRetnAlias (_y : Fin 8) (s : State) : Result := .next ((returnFromHandler s).charge 14)

end Sys2Proof.Machine
end

