-- ==== Sys2Proof/Machine/Load16.lean ====
section
/-! DEFINITION. The 16-bit load group, PUSH and POP (spec/41_load16.md R200 to R213). -/

namespace Sys2Proof.Machine

/-- `LD dd,nn` (R200). -/
def execLdDdNn (dd : RegP) (nn : Word) (s : State) : Result := .next ((s.setRp dd nn).charge 10)

/-- `LD XY,nn` (R201). -/
def execLdXyNn (x : Index) (nn : Word) (s : State) : Result := .next ((s.setXy x nn).charge 10)

/-- `LD HL,(nn)` (R202). -/
def execLdHlIndNn (nn : Word) (s : State) : Result := 
  match memRead16 nn s with
  | (v, s1) => .next ((s1.setHl v).charge 16)

/-- `LD dd,(nn)` (R203). -/
def execLdDdIndNn (dd : RegP) (nn : Word) (s : State) : Result := 
  match memRead16 nn s with
  | (v, s1) => .next ((s1.setRp dd v).charge 20)

/-- `LD XY,(nn)` (R204). -/
def execLdXyIndNn (x : Index) (nn : Word) (s : State) : Result := 
  match memRead16 nn s with
  | (v, s1) => .next ((s1.setXy x v).charge 16)

/-- `LD (nn),HL` (R205). -/
def execLdIndNnHl (nn : Word) (s : State) : Result := .next ((memWrite16 nn s.hl s).charge 16)

/-- `LD (nn),dd` (R206). -/
def execLdIndNnDd (nn : Word) (dd : RegP) (s : State) : Result := .next ((memWrite16 nn (s.rp dd) s).charge 20)

/-- `LD (nn),XY` (R207). -/
def execLdIndNnXy (x : Index) (nn : Word) (s : State) : Result := .next ((memWrite16 nn (s.xy x) s).charge 16)

/-- `LD SP,HL` (R208). -/
def execLdSpHl (s : State) : Result := .next ((s.setSp s.hl).charge 6)

/-- `LD SP,XY` (R209). -/
def execLdSpXy (x : Index) (s : State) : Result := .next ((s.setSp (s.xy x)).charge 6)

/-- `PUSH qq` (R210). -/
def execPushQq (qq : RegQ) (s : State) : Result := .next ((push16 (s.rq qq) s).charge 11)

/-- `PUSH XY` (R211). -/
def execPushXy (x : Index) (s : State) : Result := .next ((push16 (s.xy x) s).charge 11)

/-- `POP qq` (R212). -/
def execPopQq (qq : RegQ) (s : State) : Result := 
  match pop16 s with
  | (v, s1) => .next ((s1.setRq qq v).charge 10)

/-- `POP XY` (R213). -/
def execPopXy (x : Index) (s : State) : Result := 
  match pop16 s with
  | (v, s1) => .next ((s1.setXy x v).charge 10)

end Sys2Proof.Machine
end

