-- ==== Sys2Proof/Machine/Load8.lean ====
section
/-! DEFINITION. The 8-bit load group (spec/40_load8.md R170 to R189). Each meaning starts with the instruction bytes fetched
and the operands read from them; its cost is that of its own step (R15). -/

namespace Sys2Proof.Machine

/-- `r <- MemRead(a, 1)` at a cost. -/
def loadR8 (r : Reg8) (a : Word) (cost : Nat) (s : State) : State :=
  match memRead a s with
  | (v, s1) => (s1.setR8 r v).charge cost

/-- `MemWrite(a, 1, v)` at a cost. -/
def storeByte (a : Word) (v : Byte) (cost : Nat) (s : State) : State := (memWrite a v s).charge cost

/-- `LD r,r'` (R170). -/
def execLdRR (r : Reg8) (r' : Reg8) (s : State) : Result := .next ((s.setR8 r (s.r8 r')).charge 4)

/-- `LD r,n` (R171). -/
def execLdRN (r : Reg8) (n : Byte) (s : State) : Result := .next ((s.setR8 r n).charge 7)

/-- `LD p,p'` (R188). -/
def execLdPP (x : Index) (p : IReg8) (p' : IReg8) (s : State) : Result := .next ((s.setIr8 x p (s.ir8 x p')).charge 4)

/-- `LD XYh/XYl,n` (R189). -/
def execLdXyHalfN (x : Index) (k : Half) (n : Byte) (s : State) : Result := .next ((s.setHalf x k n).charge 7)

/-- `LD r,(HL)` (R172). -/
def execLdRIndHl (r : Reg8) (s : State) : Result := .next (loadR8 r s.hl 7 s)

/-- `LD r,(XY+d)` (R173): the real H and L. -/
def execLdRIndXy (x : Index) (r : Reg8) (d : Byte) (s : State) : Result := .next (loadR8 r (s.ea x d) 15 s)

/-- `LD (HL),r` (R174). -/
def execLdIndHlR (r : Reg8) (s : State) : Result := .next (storeByte s.hl (s.r8 r) 7 s)

/-- `LD (XY+d),r` (R175): the real H and L. -/
def execLdIndXyR (x : Index) (d : Byte) (r : Reg8) (s : State) : Result := .next (storeByte (s.ea x d) (s.r8 r) 15 s)

/-- `LD (HL),n` (R176). -/
def execLdIndHlN (n : Byte) (s : State) : Result := .next (storeByte s.hl n 10 s)

/-- `LD (XY+d),n` (R177). -/
def execLdIndXyN (x : Index) (d : Byte) (n : Byte) (s : State) : Result := .next (storeByte (s.ea x d) n 15 s)

/-- `LD A,(BC)` (R178). -/
def execLdAIndBc (s : State) : Result := .next (loadR8 .a s.bc 7 s)

/-- `LD A,(DE)` (R179). -/
def execLdAIndDe (s : State) : Result := .next (loadR8 .a s.de 7 s)

/-- `LD A,(nn)` (R180). -/
def execLdAIndNn (nn : Word) (s : State) : Result := .next (loadR8 .a nn 13 s)

/-- `LD (BC),A` (R181). -/
def execLdIndBcA (s : State) : Result := .next (storeByte s.bc s.a 7 s)

/-- `LD (DE),A` (R182). -/
def execLdIndDeA (s : State) : Result := .next (storeByte s.de s.a 7 s)

/-- `LD (nn),A` (R183). -/
def execLdIndNnA (nn : Word) (s : State) : Result := .next (storeByte nn s.a 13 s)

/-- A takes a byte and F reports it with IFF2 in PV (R184, R185). -/
def loadAir (v : Byte) (s : State) : State := ((s.setA v).setF (ldAirFlags s.f v s.iff2)).charge 9

/-- `LD A,I` (R184). -/
def execLdAI (s : State) : Result := .next (loadAir s.i s)

/-- `LD A,R` (R185): R as it stands after both opcode fetches. -/
def execLdARef (s : State) : Result := .next (loadAir s.rValue s)

/-- `LD I,A` (R186). -/
def execLdIA (s : State) : Result := .next (State.charge { s with i := s.a } 9)

/-- `LD R,A` (R187): the two increments of its own fetches are lost. -/
def execLdRefA (s : State) : Result := .next ((s.setR s.a).charge 9)

end Sys2Proof.Machine
end

