-- ==== Sys2Proof/Machine/Rotate.lean ====
section
/-! DEFINITION. The rotate and shift group (spec/46_rotate_shift.md R350 to R388). -/

namespace Sys2Proof.Machine

/-- An accumulator rotate: S, Z and PV are kept (R351 to R354). -/
def rotateA (o : RotOp) (s : State) : State :=
  match rotAcc o s.a s.f with
  | (a, f) => ((s.setA a).setF f).charge 4

/-- `r8[z] <- ROT(y, r8[z])` (R355). -/
def rotateR8 (o : RotOp) (r : Reg8) (s : State) : State :=
  match rot o s.f (s.r8 r) with
  | (v, f) => ((s.setR8 r v).setF f).charge 8

/-- `MemWrite(ea, 1, ROT(y, MemRead(ea, 1)))` at a cost (R356, R357). -/
def rotateMem (o : RotOp) (ea : Word) (cost : Nat) (s : State) : State :=
  match memRead ea s with
  | (v, s1) =>
    match rot o s.f v with
    | (res, f) => ((memWrite ea res s1).setF f).charge cost

/-- The same with a copy of the result in a register, whose old value is not read (R358). -/
def rotateMemCopy (o : RotOp) (ea : Word) (r : Reg8) (s : State) : State :=
  match memRead ea s with
  | (v, s1) =>
    match rot o s.f v with
    | (res, f) => (((memWrite ea res s1).setR8 r res).setF f).charge 19

/-- `RLCA` (R351). -/
def execRlca (s : State) : Result := .next (rotateA .rlc s)

/-- `RLA` (R352). -/
def execRla (s : State) : Result := .next (rotateA .rl s)

/-- `RRCA` (R353). -/
def execRrca (s : State) : Result := .next (rotateA .rrc s)

/-- `RRA` (R354). -/
def execRra (s : State) : Result := .next (rotateA .rr s)

/-- `RLC r` (R355). -/
def execRlcR (r : Reg8) (s : State) : Result := .next (rotateR8 .rlc r s)

/-- `RLC (HL)` (R356). -/
def execRlcIndHl (s : State) : Result := .next (rotateMem .rlc s.hl 15 s)

/-- `RLC (XY+d)` (R357). -/
def execRlcIndXy (x : Index) (d : Byte) (s : State) : Result := .next (rotateMem .rlc (s.ea x d) 19 s)

/-- `RLC (XY+d),r` (R358). -/
def execRlcIndXyR (x : Index) (d : Byte) (r : Reg8) (s : State) : Result := .next (rotateMemCopy .rlc (s.ea x d) r s)

/-- `RRC r` (R359). -/
def execRrcR (r : Reg8) (s : State) : Result := .next (rotateR8 .rrc r s)

/-- `RRC (HL)` (R360). -/
def execRrcIndHl (s : State) : Result := .next (rotateMem .rrc s.hl 15 s)

/-- `RRC (XY+d)` (R361). -/
def execRrcIndXy (x : Index) (d : Byte) (s : State) : Result := .next (rotateMem .rrc (s.ea x d) 19 s)

/-- `RRC (XY+d),r` (R362). -/
def execRrcIndXyR (x : Index) (d : Byte) (r : Reg8) (s : State) : Result := .next (rotateMemCopy .rrc (s.ea x d) r s)

/-- `RL r` (R363). -/
def execRlR (r : Reg8) (s : State) : Result := .next (rotateR8 .rl r s)

/-- `RL (HL)` (R364). -/
def execRlIndHl (s : State) : Result := .next (rotateMem .rl s.hl 15 s)

/-- `RL (XY+d)` (R365). -/
def execRlIndXy (x : Index) (d : Byte) (s : State) : Result := .next (rotateMem .rl (s.ea x d) 19 s)

/-- `RL (XY+d),r` (R366). -/
def execRlIndXyR (x : Index) (d : Byte) (r : Reg8) (s : State) : Result := .next (rotateMemCopy .rl (s.ea x d) r s)

/-- `RR r` (R367). -/
def execRrR (r : Reg8) (s : State) : Result := .next (rotateR8 .rr r s)

/-- `RR (HL)` (R368). -/
def execRrIndHl (s : State) : Result := .next (rotateMem .rr s.hl 15 s)

/-- `RR (XY+d)` (R369). -/
def execRrIndXy (x : Index) (d : Byte) (s : State) : Result := .next (rotateMem .rr (s.ea x d) 19 s)

/-- `RR (XY+d),r` (R370). -/
def execRrIndXyR (x : Index) (d : Byte) (r : Reg8) (s : State) : Result := .next (rotateMemCopy .rr (s.ea x d) r s)

/-- `SLA r` (R371). -/
def execSlaR (r : Reg8) (s : State) : Result := .next (rotateR8 .sla r s)

/-- `SLA (HL)` (R372). -/
def execSlaIndHl (s : State) : Result := .next (rotateMem .sla s.hl 15 s)

/-- `SLA (XY+d)` (R373). -/
def execSlaIndXy (x : Index) (d : Byte) (s : State) : Result := .next (rotateMem .sla (s.ea x d) 19 s)

/-- `SLA (XY+d),r` (R374). -/
def execSlaIndXyR (x : Index) (d : Byte) (r : Reg8) (s : State) : Result := .next (rotateMemCopy .sla (s.ea x d) r s)

/-- `SRA r` (R375). -/
def execSraR (r : Reg8) (s : State) : Result := .next (rotateR8 .sra r s)

/-- `SRA (HL)` (R376). -/
def execSraIndHl (s : State) : Result := .next (rotateMem .sra s.hl 15 s)

/-- `SRA (XY+d)` (R377). -/
def execSraIndXy (x : Index) (d : Byte) (s : State) : Result := .next (rotateMem .sra (s.ea x d) 19 s)

/-- `SRA (XY+d),r` (R378). -/
def execSraIndXyR (x : Index) (d : Byte) (r : Reg8) (s : State) : Result := .next (rotateMemCopy .sra (s.ea x d) r s)

/-- `SLL r` (R379). -/
def execSllR (r : Reg8) (s : State) : Result := .next (rotateR8 .sll r s)

/-- `SLL (HL)` (R380). -/
def execSllIndHl (s : State) : Result := .next (rotateMem .sll s.hl 15 s)

/-- `SLL (XY+d)` (R381). -/
def execSllIndXy (x : Index) (d : Byte) (s : State) : Result := .next (rotateMem .sll (s.ea x d) 19 s)

/-- `SLL (XY+d),r` (R382). -/
def execSllIndXyR (x : Index) (d : Byte) (r : Reg8) (s : State) : Result := .next (rotateMemCopy .sll (s.ea x d) r s)

/-- `SRL r` (R383). -/
def execSrlR (r : Reg8) (s : State) : Result := .next (rotateR8 .srl r s)

/-- `SRL (HL)` (R384). -/
def execSrlIndHl (s : State) : Result := .next (rotateMem .srl s.hl 15 s)

/-- `SRL (XY+d)` (R385). -/
def execSrlIndXy (x : Index) (d : Byte) (s : State) : Result := .next (rotateMem .srl (s.ea x d) 19 s)

/-- `SRL (XY+d),r` (R386). -/
def execSrlIndXyR (x : Index) (d : Byte) (r : Reg8) (s : State) : Result := .next (rotateMemCopy .srl (s.ea x d) r s)

/-- The end of a digit rotate: the byte written back to (HL), the new A and its flags (R387). -/
def rotateDigits (stored a : Byte) (s : State) : State :=
  (((memWrite s.hl stored s).setA a).setF (inFlags s.f a)).charge 18

/-- `RLD` (R387). -/
def execRld (s : State) : Result := 
  match memRead s.hl s with
  | (v, s1) => .next (rotateDigits ((v <<< 4) ||| (s.a &&& 0x0F)) ((s.a &&& 0xF0) ||| (v >>> 4)) s1)

/-- `RRD` (R388). -/
def execRrd (s : State) : Result := 
  match memRead s.hl s with
  | (v, s1) => .next (rotateDigits ((s.a <<< 4) ||| (v >>> 4)) ((s.a &&& 0xF0) ||| (v &&& 0x0F)) s1)

end Sys2Proof.Machine
end

