-- ==== Sys2Proof/Machine/Unaffected.lean ====
section
/-! DEFINITION. An opcode the XY table does not list, after a DD or FD prefix: executed exactly as the base table says
(spec/30_encoding.md R141). -/

namespace Sys2Proof.Machine

/-- The meaning of the base table's instruction `i` after a prefix: its own, at its own cost; the prefix was a step of
its own (R141). -/
def execUnaffected (_x : Index) (i : Instr) (s : State) : Result :=
  match i with
  | .nop => execNop s
  | .exAfAf2 => execExAfAf2 s
  | .djnz e => execDjnz e s
  | .jr e => execJr e s
  | .jrNz e => execJrNz e s
  | .jrZ e => execJrZ e s
  | .jrNc e => execJrNc e s
  | .jrC e => execJrC e s
  | .ldDdNn dd nn => execLdDdNn dd nn s
  | .addHlSs ss => execAddHlSs ss s
  | .ldIndBcA => execLdIndBcA s
  | .ldIndDeA => execLdIndDeA s
  | .ldIndNnHl nn => execLdIndNnHl nn s
  | .ldIndNnA nn => execLdIndNnA nn s
  | .ldAIndBc => execLdAIndBc s
  | .ldAIndDe => execLdAIndDe s
  | .ldHlIndNn nn => execLdHlIndNn nn s
  | .ldAIndNn nn => execLdAIndNn nn s
  | .incSs ss => execIncSs ss s
  | .decSs ss => execDecSs ss s
  | .incR r => execIncR r s
  | .incIndHl => execIncIndHl s
  | .decR r => execDecR r s
  | .decIndHl => execDecIndHl s
  | .ldRN r n => execLdRN r n s
  | .ldIndHlN n => execLdIndHlN n s
  | .rlca => execRlca s
  | .rrca => execRrca s
  | .rla => execRla s
  | .rra => execRra s
  | .daa => execDaa s
  | .cpl => execCpl s
  | .scf => execScf s
  | .ccf => execCcf s
  | .ldRR r r' => execLdRR r r' s
  | .ldRIndHl r => execLdRIndHl r s
  | .ldIndHlR r => execLdIndHlR r s
  | .halt => execHalt s
  | .addAR r => execAddAR r s
  | .addAIndHl => execAddAIndHl s
  | .addAN n => execAddAN n s
  | .adcAR r => execAdcAR r s
  | .adcAIndHl => execAdcAIndHl s
  | .adcAN n => execAdcAN n s
  | .subR r => execSubR r s
  | .subIndHl => execSubIndHl s
  | .subN n => execSubN n s
  | .sbcAR r => execSbcAR r s
  | .sbcAIndHl => execSbcAIndHl s
  | .sbcAN n => execSbcAN n s
  | .andR r => execAndR r s
  | .andIndHl => execAndIndHl s
  | .andN n => execAndN n s
  | .xorR r => execXorR r s
  | .xorIndHl => execXorIndHl s
  | .xorN n => execXorN n s
  | .orR r => execOrR r s
  | .orIndHl => execOrIndHl s
  | .orN n => execOrN n s
  | .cpR r => execCpR r s
  | .cpIndHl => execCpIndHl s
  | .cpN n => execCpN n s
  | .retCc cc => execRetCc cc s
  | .popQq qq => execPopQq qq s
  | .ret => execRet s
  | .exx => execExx s
  | .jpHl => execJpHl s
  | .ldSpHl => execLdSpHl s
  | .jpCcNn cc nn => execJpCcNn cc nn s
  | .jpNn nn => execJpNn nn s
  | .outNA n => execOutNA n s
  | .inAN n => execInAN n s
  | .exSpHl => execExSpHl s
  | .exDeHl => execExDeHl s
  | .di => execDi s
  | .ei => execEi s
  | .callCcNn cc nn => execCallCcNn cc nn s
  | .pushQq qq => execPushQq qq s
  | .callNn nn => execCallNn nn s
  | .rst t => execRst t s
  | .prefixIx => execPrefixIx s
  | .prefixIy => execPrefixIy s
  | .rlcR r => execRlcR r s
  | .rlcIndHl => execRlcIndHl s
  | .rrcR r => execRrcR r s
  | .rrcIndHl => execRrcIndHl s
  | .rlR r => execRlR r s
  | .rlIndHl => execRlIndHl s
  | .rrR r => execRrR r s
  | .rrIndHl => execRrIndHl s
  | .slaR r => execSlaR r s
  | .slaIndHl => execSlaIndHl s
  | .sraR r => execSraR r s
  | .sraIndHl => execSraIndHl s
  | .sllR r => execSllR r s
  | .sllIndHl => execSllIndHl s
  | .srlR r => execSrlR r s
  | .srlIndHl => execSrlIndHl s
  | .bitBR b r => execBitBR b r s
  | .bitBIndHl b => execBitBIndHl b s
  | .resBR b r => execResBR b r s
  | .resBIndHl b => execResBIndHl b s
  | .setBR b r => execSetBR b r s
  | .setBIndHl b => execSetBIndHl b s
  | .inRC r => execInRC r s
  | .inC => execInC s
  | .outCR r => execOutCR r s
  | .outC0 => execOutC0 s
  | .sbcHlSs ss => execSbcHlSs ss s
  | .adcHlSs ss => execAdcHlSs ss s
  | .ldIndNnDd nn dd => execLdIndNnDd nn dd s
  | .ldDdIndNn dd nn => execLdDdIndNn dd nn s
  | .neg => execNeg s
  | .negAlias y => execNegAlias y s
  | .retn => execRetn s
  | .reti => execReti s
  | .retnAlias y => execRetnAlias y s
  | .im0 => execIm0 s
  | .im0Alias y => execIm0Alias y s
  | .im1 => execIm1 s
  | .im1Alias => execIm1Alias s
  | .im2 => execIm2 s
  | .im2Alias => execIm2Alias s
  | .ldIA => execLdIA s
  | .ldRefA => execLdRefA s
  | .ldAI => execLdAI s
  | .ldARef => execLdARef s
  | .rrd => execRrd s
  | .rld => execRld s
  | .ldi => execLdi s
  | .cpi => execCpi s
  | .ini => execIni s
  | .outi => execOuti s
  | .ldd => execLdd s
  | .cpd => execCpd s
  | .ind => execInd s
  | .outd => execOutd s
  | .ldir => execLdir s
  | .cpir => execCpir s
  | .inir => execInir s
  | .otir => execOtir s
  | .lddr => execLddr s
  | .cpdr => execCpdr s
  | .indr => execIndr s
  | .otdr => execOtdr s
  | .edNop o => execEdNop o s
  | .ldXyNn x1 nn => execLdXyNn x1 nn s
  | .addXyPp x1 pp => execAddXyPp x1 pp s
  | .ldIndNnXy x1 nn => execLdIndNnXy x1 nn s
  | .ldXyIndNn x1 nn => execLdXyIndNn x1 nn s
  | .incXy x1 => execIncXy x1 s
  | .decXy x1 => execDecXy x1 s
  | .incXyHalf x1 k => execIncXyHalf x1 k s
  | .decXyHalf x1 k => execDecXyHalf x1 k s
  | .ldXyHalfN x1 k n => execLdXyHalfN x1 k n s
  | .incIndXy x1 d => execIncIndXy x1 d s
  | .decIndXy x1 d => execDecIndXy x1 d s
  | .ldIndXyN x1 d n => execLdIndXyN x1 d n s
  | .ldPP x1 p p' => execLdPP x1 p p' s
  | .ldRIndXy x1 r d => execLdRIndXy x1 r d s
  | .ldIndXyR x1 d r => execLdIndXyR x1 d r s
  | .addAXyHalf x1 k => execAddAXyHalf x1 k s
  | .addAIndXy x1 d => execAddAIndXy x1 d s
  | .adcAXyHalf x1 k => execAdcAXyHalf x1 k s
  | .adcAIndXy x1 d => execAdcAIndXy x1 d s
  | .subXyHalf x1 k => execSubXyHalf x1 k s
  | .subIndXy x1 d => execSubIndXy x1 d s
  | .sbcAXyHalf x1 k => execSbcAXyHalf x1 k s
  | .sbcAIndXy x1 d => execSbcAIndXy x1 d s
  | .andXyHalf x1 k => execAndXyHalf x1 k s
  | .andIndXy x1 d => execAndIndXy x1 d s
  | .xorXyHalf x1 k => execXorXyHalf x1 k s
  | .xorIndXy x1 d => execXorIndXy x1 d s
  | .orXyHalf x1 k => execOrXyHalf x1 k s
  | .orIndXy x1 d => execOrIndXy x1 d s
  | .cpXyHalf x1 k => execCpXyHalf x1 k s
  | .cpIndXy x1 d => execCpIndXy x1 d s
  | .popXy x1 => execPopXy x1 s
  | .jpXy x1 => execJpXy x1 s
  | .ldSpXy x1 => execLdSpXy x1 s
  | .exSpXy x1 => execExSpXy x1 s
  | .pushXy x1 => execPushXy x1 s
  | .rlcIndXy x1 d => execRlcIndXy x1 d s
  | .rlcIndXyR x1 d r => execRlcIndXyR x1 d r s
  | .rrcIndXy x1 d => execRrcIndXy x1 d s
  | .rrcIndXyR x1 d r => execRrcIndXyR x1 d r s
  | .rlIndXy x1 d => execRlIndXy x1 d s
  | .rlIndXyR x1 d r => execRlIndXyR x1 d r s
  | .rrIndXy x1 d => execRrIndXy x1 d s
  | .rrIndXyR x1 d r => execRrIndXyR x1 d r s
  | .slaIndXy x1 d => execSlaIndXy x1 d s
  | .slaIndXyR x1 d r => execSlaIndXyR x1 d r s
  | .sraIndXy x1 d => execSraIndXy x1 d s
  | .sraIndXyR x1 d r => execSraIndXyR x1 d r s
  | .sllIndXy x1 d => execSllIndXy x1 d s
  | .sllIndXyR x1 d r => execSllIndXyR x1 d r s
  | .srlIndXy x1 d => execSrlIndXy x1 d s
  | .srlIndXyR x1 d r => execSrlIndXyR x1 d r s
  | .bitBIndXy x1 d b => execBitBIndXy x1 d b s
  | .bitBIndXyAlias x1 d b z => execBitBIndXyAlias x1 d b z s
  | .resBIndXy x1 d b => execResBIndXy x1 d b s
  | .resBIndXyR x1 d b r => execResBIndXyR x1 d b r s
  | .setBIndXy x1 d b => execSetBIndXy x1 d b s
  | .setBIndXyR x1 d b r => execSetBIndXyR x1 d b r s
  | .unaffected y j => execUnaffected y j s

end Sys2Proof.Machine
end

