-- ==== Sys2Proof/Machine/Dispatch.lean ====
section
/-! DEFINITION. The dispatch: one arm for each constructor of `Instr`, each a direct call of that instruction's meaning. -/

namespace Sys2Proof.Machine

/-- The effect of an instruction, from the state in which its bytes have been fetched (R139). -/
def exec (i : Instr) (s : State) : Host.Outcome State Fault Refusal :=
  match i with
  | .nop => Sys2Proof.Machine.execNop s
  | .exAfAf2 => Sys2Proof.Machine.execExAfAf2 s
  | .djnz e => Sys2Proof.Machine.execDjnz e s
  | .jr e => Sys2Proof.Machine.execJr e s
  | .jrNz e => Sys2Proof.Machine.execJrNz e s
  | .jrZ e => Sys2Proof.Machine.execJrZ e s
  | .jrNc e => Sys2Proof.Machine.execJrNc e s
  | .jrC e => Sys2Proof.Machine.execJrC e s
  | .ldDdNn dd nn => Sys2Proof.Machine.execLdDdNn dd nn s
  | .addHlSs ss => Sys2Proof.Machine.execAddHlSs ss s
  | .ldIndBcA => Sys2Proof.Machine.execLdIndBcA s
  | .ldIndDeA => Sys2Proof.Machine.execLdIndDeA s
  | .ldIndNnHl nn => Sys2Proof.Machine.execLdIndNnHl nn s
  | .ldIndNnA nn => Sys2Proof.Machine.execLdIndNnA nn s
  | .ldAIndBc => Sys2Proof.Machine.execLdAIndBc s
  | .ldAIndDe => Sys2Proof.Machine.execLdAIndDe s
  | .ldHlIndNn nn => Sys2Proof.Machine.execLdHlIndNn nn s
  | .ldAIndNn nn => Sys2Proof.Machine.execLdAIndNn nn s
  | .incSs ss => Sys2Proof.Machine.execIncSs ss s
  | .decSs ss => Sys2Proof.Machine.execDecSs ss s
  | .incR r => Sys2Proof.Machine.execIncR r s
  | .incIndHl => Sys2Proof.Machine.execIncIndHl s
  | .decR r => Sys2Proof.Machine.execDecR r s
  | .decIndHl => Sys2Proof.Machine.execDecIndHl s
  | .ldRN r n => Sys2Proof.Machine.execLdRN r n s
  | .ldIndHlN n => Sys2Proof.Machine.execLdIndHlN n s
  | .rlca => Sys2Proof.Machine.execRlca s
  | .rrca => Sys2Proof.Machine.execRrca s
  | .rla => Sys2Proof.Machine.execRla s
  | .rra => Sys2Proof.Machine.execRra s
  | .daa => Sys2Proof.Machine.execDaa s
  | .cpl => Sys2Proof.Machine.execCpl s
  | .scf => Sys2Proof.Machine.execScf s
  | .ccf => Sys2Proof.Machine.execCcf s
  | .ldRR r r' => Sys2Proof.Machine.execLdRR r r' s
  | .ldRIndHl r => Sys2Proof.Machine.execLdRIndHl r s
  | .ldIndHlR r => Sys2Proof.Machine.execLdIndHlR r s
  | .halt => Sys2Proof.Machine.execHalt s
  | .addAR r => Sys2Proof.Machine.execAddAR r s
  | .addAIndHl => Sys2Proof.Machine.execAddAIndHl s
  | .addAN n => Sys2Proof.Machine.execAddAN n s
  | .adcAR r => Sys2Proof.Machine.execAdcAR r s
  | .adcAIndHl => Sys2Proof.Machine.execAdcAIndHl s
  | .adcAN n => Sys2Proof.Machine.execAdcAN n s
  | .subR r => Sys2Proof.Machine.execSubR r s
  | .subIndHl => Sys2Proof.Machine.execSubIndHl s
  | .subN n => Sys2Proof.Machine.execSubN n s
  | .sbcAR r => Sys2Proof.Machine.execSbcAR r s
  | .sbcAIndHl => Sys2Proof.Machine.execSbcAIndHl s
  | .sbcAN n => Sys2Proof.Machine.execSbcAN n s
  | .andR r => Sys2Proof.Machine.execAndR r s
  | .andIndHl => Sys2Proof.Machine.execAndIndHl s
  | .andN n => Sys2Proof.Machine.execAndN n s
  | .xorR r => Sys2Proof.Machine.execXorR r s
  | .xorIndHl => Sys2Proof.Machine.execXorIndHl s
  | .xorN n => Sys2Proof.Machine.execXorN n s
  | .orR r => Sys2Proof.Machine.execOrR r s
  | .orIndHl => Sys2Proof.Machine.execOrIndHl s
  | .orN n => Sys2Proof.Machine.execOrN n s
  | .cpR r => Sys2Proof.Machine.execCpR r s
  | .cpIndHl => Sys2Proof.Machine.execCpIndHl s
  | .cpN n => Sys2Proof.Machine.execCpN n s
  | .retCc cc => Sys2Proof.Machine.execRetCc cc s
  | .popQq qq => Sys2Proof.Machine.execPopQq qq s
  | .ret => Sys2Proof.Machine.execRet s
  | .exx => Sys2Proof.Machine.execExx s
  | .jpHl => Sys2Proof.Machine.execJpHl s
  | .ldSpHl => Sys2Proof.Machine.execLdSpHl s
  | .jpCcNn cc nn => Sys2Proof.Machine.execJpCcNn cc nn s
  | .jpNn nn => Sys2Proof.Machine.execJpNn nn s
  | .outNA n => Sys2Proof.Machine.execOutNA n s
  | .inAN n => Sys2Proof.Machine.execInAN n s
  | .exSpHl => Sys2Proof.Machine.execExSpHl s
  | .exDeHl => Sys2Proof.Machine.execExDeHl s
  | .di => Sys2Proof.Machine.execDi s
  | .ei => Sys2Proof.Machine.execEi s
  | .callCcNn cc nn => Sys2Proof.Machine.execCallCcNn cc nn s
  | .pushQq qq => Sys2Proof.Machine.execPushQq qq s
  | .callNn nn => Sys2Proof.Machine.execCallNn nn s
  | .rst t => Sys2Proof.Machine.execRst t s
  | .prefixIx => Sys2Proof.Machine.execPrefixIx s
  | .prefixIy => Sys2Proof.Machine.execPrefixIy s
  | .rlcR r => Sys2Proof.Machine.execRlcR r s
  | .rlcIndHl => Sys2Proof.Machine.execRlcIndHl s
  | .rrcR r => Sys2Proof.Machine.execRrcR r s
  | .rrcIndHl => Sys2Proof.Machine.execRrcIndHl s
  | .rlR r => Sys2Proof.Machine.execRlR r s
  | .rlIndHl => Sys2Proof.Machine.execRlIndHl s
  | .rrR r => Sys2Proof.Machine.execRrR r s
  | .rrIndHl => Sys2Proof.Machine.execRrIndHl s
  | .slaR r => Sys2Proof.Machine.execSlaR r s
  | .slaIndHl => Sys2Proof.Machine.execSlaIndHl s
  | .sraR r => Sys2Proof.Machine.execSraR r s
  | .sraIndHl => Sys2Proof.Machine.execSraIndHl s
  | .sllR r => Sys2Proof.Machine.execSllR r s
  | .sllIndHl => Sys2Proof.Machine.execSllIndHl s
  | .srlR r => Sys2Proof.Machine.execSrlR r s
  | .srlIndHl => Sys2Proof.Machine.execSrlIndHl s
  | .bitBR b r => Sys2Proof.Machine.execBitBR b r s
  | .bitBIndHl b => Sys2Proof.Machine.execBitBIndHl b s
  | .resBR b r => Sys2Proof.Machine.execResBR b r s
  | .resBIndHl b => Sys2Proof.Machine.execResBIndHl b s
  | .setBR b r => Sys2Proof.Machine.execSetBR b r s
  | .setBIndHl b => Sys2Proof.Machine.execSetBIndHl b s
  | .inRC r => Sys2Proof.Machine.execInRC r s
  | .inC => Sys2Proof.Machine.execInC s
  | .outCR r => Sys2Proof.Machine.execOutCR r s
  | .outC0 => Sys2Proof.Machine.execOutC0 s
  | .sbcHlSs ss => Sys2Proof.Machine.execSbcHlSs ss s
  | .adcHlSs ss => Sys2Proof.Machine.execAdcHlSs ss s
  | .ldIndNnDd nn dd => Sys2Proof.Machine.execLdIndNnDd nn dd s
  | .ldDdIndNn dd nn => Sys2Proof.Machine.execLdDdIndNn dd nn s
  | .neg => Sys2Proof.Machine.execNeg s
  | .negAlias y => Sys2Proof.Machine.execNegAlias y s
  | .retn => Sys2Proof.Machine.execRetn s
  | .reti => Sys2Proof.Machine.execReti s
  | .retnAlias y => Sys2Proof.Machine.execRetnAlias y s
  | .im0 => Sys2Proof.Machine.execIm0 s
  | .im0Alias y => Sys2Proof.Machine.execIm0Alias y s
  | .im1 => Sys2Proof.Machine.execIm1 s
  | .im1Alias => Sys2Proof.Machine.execIm1Alias s
  | .im2 => Sys2Proof.Machine.execIm2 s
  | .im2Alias => Sys2Proof.Machine.execIm2Alias s
  | .ldIA => Sys2Proof.Machine.execLdIA s
  | .ldRefA => Sys2Proof.Machine.execLdRefA s
  | .ldAI => Sys2Proof.Machine.execLdAI s
  | .ldARef => Sys2Proof.Machine.execLdARef s
  | .rrd => Sys2Proof.Machine.execRrd s
  | .rld => Sys2Proof.Machine.execRld s
  | .ldi => Sys2Proof.Machine.execLdi s
  | .cpi => Sys2Proof.Machine.execCpi s
  | .ini => Sys2Proof.Machine.execIni s
  | .outi => Sys2Proof.Machine.execOuti s
  | .ldd => Sys2Proof.Machine.execLdd s
  | .cpd => Sys2Proof.Machine.execCpd s
  | .ind => Sys2Proof.Machine.execInd s
  | .outd => Sys2Proof.Machine.execOutd s
  | .ldir => Sys2Proof.Machine.execLdir s
  | .cpir => Sys2Proof.Machine.execCpir s
  | .inir => Sys2Proof.Machine.execInir s
  | .otir => Sys2Proof.Machine.execOtir s
  | .lddr => Sys2Proof.Machine.execLddr s
  | .cpdr => Sys2Proof.Machine.execCpdr s
  | .indr => Sys2Proof.Machine.execIndr s
  | .otdr => Sys2Proof.Machine.execOtdr s
  | .edNop o => Sys2Proof.Machine.execEdNop o s
  | .ldXyNn x nn => Sys2Proof.Machine.execLdXyNn x nn s
  | .addXyPp x pp => Sys2Proof.Machine.execAddXyPp x pp s
  | .ldIndNnXy x nn => Sys2Proof.Machine.execLdIndNnXy x nn s
  | .ldXyIndNn x nn => Sys2Proof.Machine.execLdXyIndNn x nn s
  | .incXy x => Sys2Proof.Machine.execIncXy x s
  | .decXy x => Sys2Proof.Machine.execDecXy x s
  | .incXyHalf x k => Sys2Proof.Machine.execIncXyHalf x k s
  | .decXyHalf x k => Sys2Proof.Machine.execDecXyHalf x k s
  | .ldXyHalfN x k n => Sys2Proof.Machine.execLdXyHalfN x k n s
  | .incIndXy x d => Sys2Proof.Machine.execIncIndXy x d s
  | .decIndXy x d => Sys2Proof.Machine.execDecIndXy x d s
  | .ldIndXyN x d n => Sys2Proof.Machine.execLdIndXyN x d n s
  | .ldPP x p p' => Sys2Proof.Machine.execLdPP x p p' s
  | .ldRIndXy x r d => Sys2Proof.Machine.execLdRIndXy x r d s
  | .ldIndXyR x d r => Sys2Proof.Machine.execLdIndXyR x d r s
  | .addAXyHalf x k => Sys2Proof.Machine.execAddAXyHalf x k s
  | .addAIndXy x d => Sys2Proof.Machine.execAddAIndXy x d s
  | .adcAXyHalf x k => Sys2Proof.Machine.execAdcAXyHalf x k s
  | .adcAIndXy x d => Sys2Proof.Machine.execAdcAIndXy x d s
  | .subXyHalf x k => Sys2Proof.Machine.execSubXyHalf x k s
  | .subIndXy x d => Sys2Proof.Machine.execSubIndXy x d s
  | .sbcAXyHalf x k => Sys2Proof.Machine.execSbcAXyHalf x k s
  | .sbcAIndXy x d => Sys2Proof.Machine.execSbcAIndXy x d s
  | .andXyHalf x k => Sys2Proof.Machine.execAndXyHalf x k s
  | .andIndXy x d => Sys2Proof.Machine.execAndIndXy x d s
  | .xorXyHalf x k => Sys2Proof.Machine.execXorXyHalf x k s
  | .xorIndXy x d => Sys2Proof.Machine.execXorIndXy x d s
  | .orXyHalf x k => Sys2Proof.Machine.execOrXyHalf x k s
  | .orIndXy x d => Sys2Proof.Machine.execOrIndXy x d s
  | .cpXyHalf x k => Sys2Proof.Machine.execCpXyHalf x k s
  | .cpIndXy x d => Sys2Proof.Machine.execCpIndXy x d s
  | .popXy x => Sys2Proof.Machine.execPopXy x s
  | .jpXy x => Sys2Proof.Machine.execJpXy x s
  | .ldSpXy x => Sys2Proof.Machine.execLdSpXy x s
  | .exSpXy x => Sys2Proof.Machine.execExSpXy x s
  | .pushXy x => Sys2Proof.Machine.execPushXy x s
  | .rlcIndXy x d => Sys2Proof.Machine.execRlcIndXy x d s
  | .rlcIndXyR x d r => Sys2Proof.Machine.execRlcIndXyR x d r s
  | .rrcIndXy x d => Sys2Proof.Machine.execRrcIndXy x d s
  | .rrcIndXyR x d r => Sys2Proof.Machine.execRrcIndXyR x d r s
  | .rlIndXy x d => Sys2Proof.Machine.execRlIndXy x d s
  | .rlIndXyR x d r => Sys2Proof.Machine.execRlIndXyR x d r s
  | .rrIndXy x d => Sys2Proof.Machine.execRrIndXy x d s
  | .rrIndXyR x d r => Sys2Proof.Machine.execRrIndXyR x d r s
  | .slaIndXy x d => Sys2Proof.Machine.execSlaIndXy x d s
  | .slaIndXyR x d r => Sys2Proof.Machine.execSlaIndXyR x d r s
  | .sraIndXy x d => Sys2Proof.Machine.execSraIndXy x d s
  | .sraIndXyR x d r => Sys2Proof.Machine.execSraIndXyR x d r s
  | .sllIndXy x d => Sys2Proof.Machine.execSllIndXy x d s
  | .sllIndXyR x d r => Sys2Proof.Machine.execSllIndXyR x d r s
  | .srlIndXy x d => Sys2Proof.Machine.execSrlIndXy x d s
  | .srlIndXyR x d r => Sys2Proof.Machine.execSrlIndXyR x d r s
  | .bitBIndXy x d b => Sys2Proof.Machine.execBitBIndXy x d b s
  | .bitBIndXyAlias x d b z => Sys2Proof.Machine.execBitBIndXyAlias x d b z s
  | .resBIndXy x d b => Sys2Proof.Machine.execResBIndXy x d b s
  | .resBIndXyR x d b r => Sys2Proof.Machine.execResBIndXyR x d b r s
  | .setBIndXy x d b => Sys2Proof.Machine.execSetBIndXy x d b s
  | .setBIndXyR x d b r => Sys2Proof.Machine.execSetBIndXyR x d b r s
  | .unaffected x j => Sys2Proof.Machine.execUnaffected x j s

end Sys2Proof.Machine
end

