-- ==== Sys2Proof/Machine/Step.lean ====
section
/-! DEFINITION. One step of the machine (spec/60_exceptions.md R481), and the state in which the next step runs an
instruction given by its word. -/

namespace Sys2Proof.Machine

/-- `Step()` (R481): acceptance of an interrupt, a halted cycle, or one instruction. -/
def step (s : State) : Host.Outcome State Fault Refusal :=
  match nonInstructionStep s.beginStep with
  | some t => .next t
  | none =>
    match fetchInstr s.beginStep.endDefer with
    | (i, t) => exec i t

/-- `s` with the instruction of the opcode table whose bits are `w` placed where the next step fetches it (log entries
1 and 11). -/
def State.withFetchWord (s : State) (nbits w : Nat) : State := s.placeInstr nbits w

end Sys2Proof.Machine
end

