-- ==== Sys2Proof/Machine/HostInterface.lean ====
section
/-! DEFINITION. What the host can do to the machine between steps (spec/70_reset_and_hazards.md R540, R570 to R576;
spec/60_exceptions.md R483, R484, R501). An operation that the spec refuses answers none: nothing changes. -/

namespace Sys2Proof.Machine

/-- `DeviceReset(d)` for `n` devices from `d` on, in order (R506). -/
def resetDevices (d : Nat) : Nat → Shared → Shared
  | 0, h => h
  | n + 1, h => resetDevices (d + 1) n (h.perform (.deviceReset d))

/-- `reset` with a chain of `n` devices, 0 for none (R540): refused where the chain is too long; memory keeps its
contents, and the host goes on as it would (log entry 21). The devices are reset after the controller, in order, so that
a report a device makes from inside its reset is honoured. -/
def hostReset (n : Nat) (s : State) : Option State :=
  if n ≤ Config.maxDaisy then
    some
      { State.reset with
        toShared :=
          resetDevices 0 n
            { State.reset.toShared with intState := List.replicate n 0, mem := s.mem, host := s.host, calls := s.calls } }
  else none

/-- `set_nmi_line(state)` (R483). -/
def setNmiLine (level : Bool) (s : State) : State := { s with toShared := s.toShared.setNmiLine level }

/-- `set_irq_line(line, state)` with its state report (R484, R501; log entry 22). -/
def setIrqLine (line : Nat) (level : Bool) (report : Option (Nat × Byte)) (s : State) : Option State :=
  (s.toShared.setIrqLine line level report).map fun h => { s with toShared := h }

/-- The host changes a byte of memory it owns between steps (R73, R114). -/
def setMemory (a : Word) (v : Byte) (s : State) : State := { s with toShared := s.toShared.poke a v }

/-- The loop of `execute`, with fuel (R570, R559; log entry 15): the remaining budget and the state, or none where the
fuel is used up first. The host acts in it only from inside the operations of its steps (R17, R558), as `Shared.host`
says. -/
def executeLoop : Nat → Int → State → Option (Int × State)
  | 0, _, _ => none
  | fuel + 1, rem, s =>
    if 0 < rem || s.intDefer || s.xyMode.isSome then
      match step s with
      | .next t => executeLoop fuel (rem - t.cost) t
      | .fault _ => none
      | .refused _ => none
    else some (rem, s)

/-- `execute(budget)`: the T-states consumed and the state (R570). -/
def execute (fuel : Nat) (budget : Int) (s : State) : Option (Int × State) :=
  (executeLoop fuel budget s).map fun p => (budget - p.1, p.2)

/-- The enumerants of the register port (R575). -/
inductive PortReg where
  | pc | sp | af | bc | de | hl | ix | iy | af2 | bc2 | de2 | hl2 | prepc
  | a | f | b | c | d | e | h | l | ixh | ixl | iyh | iyl
  | i | r | im | iff1 | iff2 | halt | nmiLine | nmiPending | irqLine
  | dc (dev : Nat) | requestDev | serviceDev
deriving DecidableEq, Repr

/-- A byte as a 16-bit value, zero-extended. -/
def wide (v : Byte) : Word := v.zeroExtend 16

/-- A bit as a 16-bit value. -/
def bitWord (p : Bool) : Word := if p then 1 else 0

/-- IM as a 16-bit value (R575). -/
def IMode.toWord : IMode → Word
  | .im0 => 0
  | .im1 => 1
  | .im2 => 2

/-- The mode of a 16-bit value: the value 3 and above is refused (R45, R575). -/
def IMode.ofWord (v : Word) : Option IMode :=
  if v = 0 then some .im0 else if v = 1 then some .im1 else if v = 2 then some .im2 else none

/-- A device index as a 16-bit value, 0xFFFF for none (R575). -/
def devWord : Option Nat → Word
  | some d => BitVec.ofNat 16 d
  | none => 0xFFFF

/-- `get_register(reg)` (R575): refused for a device that is not in the chain. -/
def getRegister (reg : PortReg) (s : State) : Option Word :=
  match reg with
  | .pc => some s.pc
  | .sp => some s.sp
  | .af => some s.af
  | .bc => some s.bc
  | .de => some s.de
  | .hl => some s.hl
  | .ix => some s.ix
  | .iy => some s.iy
  | .af2 => some s.af2
  | .bc2 => some s.bc2
  | .de2 => some s.de2
  | .hl2 => some s.hl2
  | .prepc => some s.prepc
  | .a => some (wide s.a)
  | .f => some (wide s.f)
  | .b => some (wide s.b)
  | .c => some (wide s.c)
  | .d => some (wide s.d)
  | .e => some (wide s.e)
  | .h => some (wide s.h)
  | .l => some (wide s.l)
  | .ixh => some (wide (hiByte s.ix))
  | .ixl => some (wide (loByte s.ix))
  | .iyh => some (wide (hiByte s.iy))
  | .iyl => some (wide (loByte s.iy))
  | .i => some (wide s.i)
  | .r => some (wide s.rValue)
  | .im => some s.im.toWord
  | .iff1 => some (bitWord s.iff1)
  | .iff2 => some (bitWord s.iff2)
  | .halt => some (bitWord s.halt)
  | .nmiLine => some (bitWord s.nmiLine)
  | .nmiPending => some (bitWord s.nmiPending)
  | .irqLine => some (bitWord s.irqLine)
  | .dc dev => s.intState[dev]?.map wide
  | .requestDev => some (devWord s.requestDev)
  | .serviceDev => some (devWord s.serviceDev)

/-- `set_register(reg, v)` (R575): no side effect beyond the write; refused for what the port may only read. -/
def setRegister (reg : PortReg) (v : Word) (s : State) : Option State :=
  match reg with
  | .pc => some { s with pc := v }
  | .sp => some { s with sp := v }
  | .af => some (s.setAf v)
  | .bc => some (s.setBc v)
  | .de => some (s.setDe v)
  | .hl => some (s.setHl v)
  | .ix => some { s with ix := v }
  | .iy => some { s with iy := v }
  | .af2 => some { s with af2 := v }
  | .bc2 => some { s with bc2 := v }
  | .de2 => some { s with de2 := v }
  | .hl2 => some { s with hl2 := v }
  | .prepc => none
  | .a => some { s with a := loByte v }
  | .f => some { s with f := loByte v }
  | .b => some { s with b := loByte v }
  | .c => some { s with c := loByte v }
  | .d => some { s with d := loByte v }
  | .e => some { s with e := loByte v }
  | .h => some { s with h := loByte v }
  | .l => some { s with l := loByte v }
  | .ixh => some (s.setHalf .ix .high (loByte v))
  | .ixl => some (s.setHalf .ix .low (loByte v))
  | .iyh => some (s.setHalf .iy .high (loByte v))
  | .iyl => some (s.setHalf .iy .low (loByte v))
  | .i => some { s with i := loByte v }
  | .r => some (s.setR (loByte v))
  | .im => (IMode.ofWord v).map fun m => { s with im := m }
  | .iff1 => some { s with iff1 := v != 0 }
  | .iff2 => some { s with iff2 := v != 0 }
  | .halt => some { s with halt := v != 0 }
  | .nmiLine => none
  | .nmiPending => none
  | .irqLine => none
  | .dc _ => none
  | .requestDev => none
  | .serviceDev => none

/-- The exported context as a record (R576): its byte layout is not specified. -/
structure Context where
  af : Word
  bc : Word
  de : Word
  hl : Word
  af2 : Word
  bc2 : Word
  de2 : Word
  hl2 : Word
  ix : Word
  iy : Word
  sp : Word
  pc : Word
  prepc : Word
  i : Byte
  rCount : BitVec 7
  rB7 : BitVec 1
  iff1 : Bool
  iff2 : Bool
  im : IMode
  halt : Bool
  nmiLine : Bool
  nmiPending : Bool
  irqLine : Bool
  intState : List Byte
  requestDev : Option Nat
  serviceDev : Option Nat
deriving DecidableEq, Repr

/-- `export_context()` (R576): the device states are filled up with 0 to `MAX_DAISY` entries. -/
def exportContext (s : State) : Context where
  af := s.af
  bc := s.bc
  de := s.de
  hl := s.hl
  af2 := s.af2
  bc2 := s.bc2
  de2 := s.de2
  hl2 := s.hl2
  ix := s.ix
  iy := s.iy
  sp := s.sp
  pc := s.pc
  prepc := s.prepc
  i := s.i
  rCount := s.rCount
  rB7 := s.rB7
  iff1 := s.iff1
  iff2 := s.iff2
  im := s.im
  halt := s.halt
  nmiLine := s.nmiLine
  nmiPending := s.nmiPending
  irqLine := s.irqLine
  intState := s.intState ++ List.replicate (Config.maxDaisy - s.nDev) 0
  requestDev := s.requestDev
  serviceDev := s.serviceDev

/-- A context that a core of `n` devices can have exported: `MAX_DAISY` device states of which those from `n` on are 0,
and a grant and a device under service that the controller's rules give (R502, R503; log entry 16). -/
def Context.valid (n : Nat) (x : Context) : Bool :=
  decide (n ≤ Config.maxDaisy) && decide (x.intState.length = Config.maxDaisy) && (x.intState.drop n).all (fun v => v == 0)
    && decide (x.serviceDev = firstIeo 0 (x.intState.take n))
    && (x.requestDev.isNone || decide (x.requestDev = firstGrant 0 (x.intState.take n)))

/-- `import_context(blob)` (R576), told the exporter's `N_DEV`: refused where it is not this core's, or where the
blob is not one a core exports; memory, ports, INTDEFER and XYMODE are untouched (log entry 16). -/
def importContext (exporterDevs : Nat) (x : Context) (s : State) : Option State :=
  if exporterDevs = s.nDev && x.valid s.nDev then
    some
      { s with
        a := hiByte x.af
        f := loByte x.af
        b := hiByte x.bc
        c := loByte x.bc
        d := hiByte x.de
        e := loByte x.de
        h := hiByte x.hl
        l := loByte x.hl
        af2 := x.af2
        bc2 := x.bc2
        de2 := x.de2
        hl2 := x.hl2
        ix := x.ix
        iy := x.iy
        sp := x.sp
        pc := x.pc
        prepc := x.prepc
        i := x.i
        rCount := x.rCount
        rB7 := x.rB7
        iff1 := x.iff1
        iff2 := x.iff2
        im := x.im
        halt := x.halt
        nmiLine := x.nmiLine
        nmiPending := x.nmiPending
        irqLine := x.irqLine
        intState := x.intState.take s.nDev
        requestDev := x.requestDev
        serviceDev := x.serviceDev }
  else none

end Sys2Proof.Machine
end

