-- ==== Sys2Proof/Safety.lean ====
section
/-! DEFINITION. What a safe run is, the invariant that every step keeps, and the vocabulary of the statements: what an
instruction's result, its flags and its frame are, said by arithmetic on numbers and not by the machine's own flag
computations. -/

namespace Sys2Proof

/-! ### Instructions behind a prefix -/

/-- The instruction a fallen-through one stands for (R141). -/
def Instr.core : Instr → Instr
  | .unaffected _ i => Instr.core i
  | i => i

/-! ### Kinds of instruction -/

/-- The instructions that store to memory (R51 and the rules of files 40 to 49). -/
def Instr.storesMemory (i : Instr) : Bool :=
  match i.core with
  | .ldIndBcA | .ldIndDeA | .ldIndNnHl _ | .ldIndNnA _ | .incIndHl | .decIndHl | .ldIndHlN _ | .ldIndHlR _ | .exSpHl
  | .callCcNn _ _ | .pushQq _ | .callNn _ | .rst _ | .rlcIndHl | .rrcIndHl | .rlIndHl | .rrIndHl | .slaIndHl | .sraIndHl
  | .sllIndHl | .srlIndHl | .resBIndHl _ | .setBIndHl _ | .ldIndNnDd _ _ | .rrd | .rld | .ldi | .ini | .ldd | .ind | .ldir
  | .inir | .lddr | .indr | .ldIndNnXy _ _ | .incIndXy _ _ | .decIndXy _ _ | .ldIndXyN _ _ _ | .ldIndXyR _ _ _ | .exSpXy _
  | .pushXy _ | .rlcIndXy _ _ | .rlcIndXyR _ _ _ | .rrcIndXy _ _ | .rrcIndXyR _ _ _ | .rlIndXy _ _ | .rlIndXyR _ _ _
  | .rrIndXy _ _ | .rrIndXyR _ _ _ | .slaIndXy _ _ | .slaIndXyR _ _ _ | .sraIndXy _ _ | .sraIndXyR _ _ _ | .sllIndXy _ _
  | .sllIndXyR _ _ _ | .srlIndXy _ _ | .srlIndXyR _ _ _ | .resBIndXy _ _ _ | .resBIndXyR _ _ _ _ | .setBIndXy _ _ _
  | .setBIndXyR _ _ _ _ => true
  | _ => false

/-- The instructions that reach the port space (R71). -/
def Instr.reachesPorts (i : Instr) : Bool :=
  match i.core with
  | .outNA _ | .inAN _ | .inRC _ | .inC | .outCR _ | .outC0 | .ini | .outi | .ind | .outd | .inir | .otir | .indr | .otdr =>
    true
  | _ => false

/-- The instructions of R51's last row and of its all-kept rows: F is left as it was. -/
def Instr.keepsFlags (i : Instr) : Bool :=
  match i.core with
  | .nop | .djnz _ | .jr _ | .jrNz _ | .jrZ _ | .jrNc _ | .jrC _ | .ldDdNn _ _ | .ldIndBcA | .ldIndDeA | .ldIndNnHl _
  | .ldIndNnA _ | .ldAIndBc | .ldAIndDe | .ldHlIndNn _ | .ldAIndNn _ | .incSs _ | .decSs _ | .ldRN _ _ | .ldIndHlN _
  | .ldRR _ _ | .ldRIndHl _ | .ldIndHlR _ | .halt | .retCc _ | .popQq .bc | .popQq .de | .popQq .hl | .ret | .exx | .jpHl
  | .ldSpHl | .jpCcNn _ _ | .jpNn _ | .outNA _ | .inAN _ | .exSpHl | .exDeHl | .di | .ei | .callCcNn _ _ | .pushQq _
  | .callNn _ | .rst _ | .prefixIx | .prefixIy | .resBR _ _ | .resBIndHl _ | .setBR _ _ | .setBIndHl _ | .outCR _ | .outC0
  | .ldIndNnDd _ _ | .ldDdIndNn _ _ | .retn | .reti | .retnAlias _ | .im0 | .im0Alias _ | .im1 | .im1Alias | .im2
  | .im2Alias | .ldIA | .ldRefA | .edNop _ | .ldXyNn _ _ | .ldIndNnXy _ _ | .ldXyIndNn _ _ | .incXy _ | .decXy _
  | .ldXyHalfN _ _ _ | .ldIndXyN _ _ _ | .ldPP _ _ _ | .ldRIndXy _ _ _ | .ldIndXyR _ _ _ | .popXy _ | .jpXy _ | .ldSpXy _
  | .exSpXy _ | .pushXy _ | .resBIndXy _ _ _ | .resBIndXyR _ _ _ _ | .setBIndXy _ _ _ | .setBIndXyR _ _ _ _ => true
  | _ => false

end Sys2Proof

namespace Sys2Proof.Machine

/-! ### Safety and the invariant -/

/-- A safe outcome: a next state. The core raises no exception (R480), so every step should have one. -/
def Safe (o : Result) : Prop := ∃ t, o = .next t

/-- What holds of every state a run reaches. -/
structure State.Inv (s : State) : Prop where
  /-- The memory has its canonical form. -/
  memWf : s.mem.wf = true
  /-- No interrupt comes between a prefix and its opcode (R140, R551). -/
  shielded : s.xyMode ≠ none → s.intDefer = true
  /-- A halted core has no deferral pending: HALT is not EI or a prefix (R308). -/
  haltClear : s.halt = true → s.intDefer = false
  /-- The chain is not longer than the controller allows (R500). -/
  chain : s.nDev ≤ Config.maxDaisy
  /-- The device under service is the first with IEO (R502). -/
  service : s.serviceDev = firstIeo 0 s.intState
  /-- A grant is the one the controller's scan gives, until an acceptance takes it (R502, R503). -/
  grant : s.requestDev = none ∨ s.requestDev = firstGrant 0 s.intState

/-! ### The host -/

/-- The host changes memory in what it does from inside an operation. -/
def HostAct.onMemory : HostAct → Bool
  | .setMemory _ _ => true
  | .setNmiLine _ => false
  | .setIrqLine _ _ _ => false

/-- The host changes no memory from inside the operations to come. -/
abbrev State.HostKeepsMemory (s : State) : Prop := ∀ c, c ∈ s.host → ∀ x, x ∈ c.acts → x.onMemory = false

/-- The host calls no line setter and reports no device state from inside the operations to come. -/
abbrev State.HostKeepsLines (s : State) : Prop := ∀ c, c ∈ s.host → ∀ x, x ∈ c.acts → x.onMemory = true

/-- The host changes no memory from inside the operations to come and answers each read of memory with what stands
there. -/
abbrev State.PlainMemory (s : State) : Prop := s.HostKeepsMemory ∧ ∀ c, c ∈ s.host → c.answer = none

/-- The state after operations of the core on its host, in order: only what is shared with the host differs. -/
def State.after (s : State) (evs : List BusEvent) : State := evs.foldl State.perform s

/-- The byte at `b` after operations on a host that changes no memory itself: the last one written there, if any. -/
def written (evs : List BusEvent) (b : Word) (old : Byte) : Byte :=
  match evs with
  | [] => old
  | .memWrite a v :: evs => written evs b (if a = b then v else old)
  | _ :: evs => written evs b old

/-- What the host does from inside an operation, as the same call between steps: a refused one changes nothing (R558). -/
def hostDoes (s : State) (x : HostAct) : State :=
  match x with
  | .setMemory a v => setMemory a v s
  | .setNmiLine level => setNmiLine level s
  | .setIrqLine line level report => (setIrqLine line level report s).getD s

/-! ### Completion and frames -/

/-- The instruction answers a next state, at a cost, after these bus operations and no others; memory is as they leave
it, if the host changes none itself; and the state after the operations and the next state are as the last argument
says. -/
def Completes (i : Instr) (s : State) (cost : Nat) (events : List BusEvent) (post : State → State → Prop) : Prop :=
  ∃ t, exec i s = .next t ∧ t.cost = cost ∧ t.bus = s.bus ++ events ∧
    (s.HostKeepsMemory → ∀ b, t.peek b = written events b (s.peek b)) ∧ post (s.after events) t

/-- `t` is `u` but for the cost. -/
def KeepsAll (u t : State) : Prop := t = { u with cost := t.cost }

/-- Only F may differ. -/
def KeepsExceptF (u t : State) : Prop := t = { u with f := t.f, cost := t.cost }

/-- Only A and F may differ. -/
def KeepsExceptAF (u t : State) : Prop := t = { u with a := t.a, f := t.f, cost := t.cost }

/-- Only PC may differ. -/
def KeepsExceptPc (u t : State) : Prop := t = { u with pc := t.pc, cost := t.cost }

/-- Only the register `r` may differ. -/
def KeepsExceptR8 (r : Reg8) (u t : State) : Prop :=
  t = { u with a := t.a, b := t.b, c := t.c, d := t.d, e := t.e, h := t.h, l := t.l, cost := t.cost } ∧
  ∀ q, q ≠ r → t.r8 q = u.r8 q

/-- Only the register `r` and F may differ. -/
def KeepsExceptR8F (r : Reg8) (u t : State) : Prop := KeepsExceptR8 r u { t with f := u.f }

/-- Only the pair `p` may differ. -/
def KeepsExceptRp (p : RegP) (u t : State) : Prop :=
  t = { u with b := t.b, c := t.c, d := t.d, e := t.e, h := t.h, l := t.l, sp := t.sp, cost := t.cost } ∧
  ∀ q, q ≠ p → t.rp q = u.rp q

/-- Only the index register `x` may differ. -/
def KeepsExceptXy (x : Index) (u t : State) : Prop :=
  t = { u with ix := t.ix, iy := t.iy, cost := t.cost } ∧ ∀ y, y ≠ x → t.xy y = u.xy y

/-- Only the half `k` of the index register `x` may differ. -/
def KeepsExceptHalf (x : Index) (k : Half) (u t : State) : Prop :=
  KeepsExceptXy x u t ∧ ∀ j, j ≠ k → t.half x j = u.half x j

/-- Only the register `p` of index mode may differ. -/
def KeepsExceptIr8 (x : Index) (p : IReg8) (u t : State) : Prop :=
  match p with
  | .b => KeepsExceptR8 .b u t
  | .c => KeepsExceptR8 .c u t
  | .d => KeepsExceptR8 .d u t
  | .e => KeepsExceptR8 .e u t
  | .xh => KeepsExceptHalf x .high u t
  | .xl => KeepsExceptHalf x .low u t
  | .a => KeepsExceptR8 .a u t

/-- If the host changes no memory itself, the byte `v` stands at `a` and every other address reads as before. -/
def StoredByte (a : Word) (v : Byte) (s t : State) : Prop :=
  s.HostKeepsMemory → t.peek a = v ∧ ∀ b, b ≠ a → t.peek b = s.peek b

/-- If the host changes no memory itself, the word `v` stands at `a`, its low byte first, and every other address reads
as before. -/
def StoredWord (a v : Word) (s t : State) : Prop :=
  s.HostKeepsMemory →
    t.peek a = loByte v ∧ t.peek (a + 1) = hiByte v ∧ ∀ b, b ≠ a → b ≠ a + 1 → t.peek b = s.peek b

/-- The word at `a`, its low byte first. -/
def State.peek16 (s : State) (a : Word) : Word := wordOf (s.peek (a + 1)) (s.peek a)

/-- A data read of one byte, as a bus event. -/
def State.readEv (s : State) (a : Word) : BusEvent := .memRead .data a (s.hear a)

/-- The data reads of a word, as bus events: the low byte first (R106). -/
def State.reads16 (s : State) (a : Word) : List BusEvent := [s.readEv a, (s.after [s.readEv a]).readEv (a + 1)]

/-- The word that its two data reads give. -/
def State.hear16 (s : State) (a : Word) : Word := wordOf ((s.after [s.readEv a]).hear (a + 1)) (s.hear a)

/-- Two stack writes of a push, as bus events: the high byte first (R108). -/
def State.pushEvs (s : State) (v : Word) : List BusEvent :=
  [.memWrite (s.sp - 1) (hiByte v), .memWrite (s.sp - 2) (loByte v)]

/-- The fetches of an instruction at `pc`, as bus events: its opcode bytes, then its operand bytes (R131). -/
def fetchEvs (i : Instr) (pc : Word) : List BusEvent :=
  i.encodeOp.mapIdx fun k v =>
    .memRead (if k < i.format.opcodeReads then .opcode else .arg) (pc + BitVec.ofNat 16 k) v

/-- The next fetches hear the bytes of the instruction. -/
abbrev State.Fetches (s : State) (i : Instr) : Prop :=
  ∀ k (h : k < i.encodeOp.length),
    (s.after ((fetchEvs i s.pc).take k)).hear (s.pc + BitVec.ofNat 16 k) = i.encodeOp[k]

/-! ### Flags by arithmetic -/

/-- S, Z, Y and X as the result byte gives them (R51). -/
def ResultFlags (res f : Byte) : Prop :=
  flagS f = decide (128 ≤ res.toNat) ∧ flagZ f = decide (res.toNat = 0) ∧ flagY f = res.getLsbD 5 ∧ flagX f = res.getLsbD 3

/-- An even number of one bits. -/
def evenOnes (v : Byte) : Bool := decide ((List.range 8).countP (fun k => v.getLsbD k) % 2 = 0)

/-- A bit as a number. -/
def carryIn (c : Bool) : Nat := if c then 1 else 0

/-- The sum of two bytes and a carry, with its flags (R65). -/
def SumResult (a v : Byte) (c : Bool) (res f : Byte) : Prop :=
  res.toNat = (a.toNat + v.toNat + carryIn c) % 256 ∧
  ResultFlags res f ∧
  flagH f = decide (15 < a.toNat % 16 + v.toNat % 16 + carryIn c) ∧
  flagPV f = decide (a.toInt + v.toInt + carryIn c < -128 ∨ 127 < a.toInt + v.toInt + carryIn c) ∧
  flagN f = false ∧
  flagC f = decide (255 < a.toNat + v.toNat + carryIn c)

/-- The difference of two bytes and a borrow, with its flags (R66). -/
def DifferenceResult (a v : Byte) (c : Bool) (res f : Byte) : Prop :=
  res.toNat = (a.toNat + 512 - v.toNat - carryIn c) % 256 ∧
  ResultFlags res f ∧
  flagH f = decide (a.toNat % 16 < v.toNat % 16 + carryIn c) ∧
  flagPV f = decide (a.toInt - v.toInt - carryIn c < -128 ∨ 127 < a.toInt - v.toInt - carryIn c) ∧
  flagN f = true ∧
  flagC f = decide (a.toNat < v.toNat + carryIn c)

/-- The flags of a logic operation (R51). -/
def LogicFlags (h : Bool) (res f : Byte) : Prop :=
  ResultFlags res f ∧ flagH f = h ∧ flagPV f = evenOnes res ∧ flagN f = false ∧ flagC f = false

/-- What each 8-bit operation leaves in A and F, from A, F and the operand (R240, R51). -/
def AluResult (o : AluOp) (a f v a' f' : Byte) : Prop :=
  match o with
  | .add => SumResult a v false a' f'
  | .adc => SumResult a v (flagC f) a' f'
  | .sub => DifferenceResult a v false a' f'
  | .sbc => DifferenceResult a v (flagC f) a' f'
  | .and => (∀ k, k < 8 → a'.getLsbD k = (a.getLsbD k && v.getLsbD k)) ∧ LogicFlags true a' f'
  | .xor => (∀ k, k < 8 → a'.getLsbD k = (a.getLsbD k != v.getLsbD k)) ∧ LogicFlags false a' f'
  | .or => (∀ k, k < 8 → a'.getLsbD k = (a.getLsbD k || v.getLsbD k)) ∧ LogicFlags false a' f'
  | .cp =>
    a' = a ∧
    ∃ res g, DifferenceResult a v false res g ∧ flagS f' = flagS g ∧ flagZ f' = flagZ g ∧ flagY f' = v.getLsbD 5 ∧
      flagH f' = flagH g ∧ flagX f' = v.getLsbD 3 ∧ flagPV f' = flagPV g ∧ flagN f' = true ∧ flagC f' = flagC g

/-- The increment of a byte: C is kept (R289, R63). -/
def IncResult (f v res f' : Byte) : Prop :=
  res.toNat = (v.toNat + 1) % 256 ∧
  ResultFlags res f' ∧
  flagH f' = decide (res.toNat % 16 = 0) ∧
  flagPV f' = decide (v.toNat = 127) ∧
  flagN f' = false ∧
  flagC f' = flagC f

/-- The decrement of a byte: C is kept (R289, R64). -/
def DecResult (f v res f' : Byte) : Prop :=
  res.toNat = (v.toNat + 255) % 256 ∧
  ResultFlags res f' ∧
  flagH f' = decide (res.toNat % 16 = 15) ∧
  flagPV f' = decide (v.toNat = 128) ∧
  flagN f' = true ∧
  flagC f' = flagC f

/-- S, Z and PV are as they were. -/
def KeepsSZP (f f' : Byte) : Prop := flagS f' = flagS f ∧ flagZ f' = flagZ f ∧ flagPV f' = flagPV f

/-- A 16-bit sum that keeps S, Z and PV (R330). -/
def Sum16Result (f : Byte) (a b r : Word) (f' : Byte) : Prop :=
  r.toNat = (a.toNat + b.toNat) % 65536 ∧
  KeepsSZP f f' ∧
  flagH f' = decide (4095 < a.toNat % 4096 + b.toNat % 4096) ∧
  flagY f' = r.getLsbD 13 ∧
  flagX f' = r.getLsbD 11 ∧
  flagN f' = false ∧
  flagC f' = decide (65535 < a.toNat + b.toNat)

/-- S, Z, Y and X of a 16-bit result (R331). -/
def ResultFlags16 (r : Word) (f : Byte) : Prop :=
  flagS f = r.getLsbD 15 ∧ flagZ f = decide (r.toNat = 0) ∧ flagY f = r.getLsbD 13 ∧ flagX f = r.getLsbD 11

/-- A 16-bit sum with carry that writes every flag (R331). -/
def Adc16Result (f : Byte) (a b r : Word) (f' : Byte) : Prop :=
  r.toNat = (a.toNat + b.toNat + carryIn (flagC f)) % 65536 ∧
  ResultFlags16 r f' ∧
  flagH f' = decide (4095 < a.toNat % 4096 + b.toNat % 4096 + carryIn (flagC f)) ∧
  flagPV f' =
    decide (a.toInt + b.toInt + carryIn (flagC f) < -32768 ∨ 32767 < a.toInt + b.toInt + carryIn (flagC f)) ∧
  flagN f' = false ∧
  flagC f' = decide (65535 < a.toNat + b.toNat + carryIn (flagC f))

/-- A 16-bit difference with borrow that writes every flag (R332). -/
def Sbc16Result (f : Byte) (a b r : Word) (f' : Byte) : Prop :=
  r.toNat = (a.toNat + 131072 - b.toNat - carryIn (flagC f)) % 65536 ∧
  ResultFlags16 r f' ∧
  flagH f' = decide (a.toNat % 4096 < b.toNat % 4096 + carryIn (flagC f)) ∧
  flagPV f' =
    decide (a.toInt - b.toInt - carryIn (flagC f) < -32768 ∨ 32767 < a.toInt - b.toInt - carryIn (flagC f)) ∧
  flagN f' = true ∧
  flagC f' = decide (a.toNat < b.toNat + carryIn (flagC f))

/-- The number each rotate or shift makes of a byte and a carry (R350). -/
def rotNumber (o : RotOp) (c : Bool) (v : Nat) : Nat :=
  match o with
  | .rlc => 2 * v % 256 + v / 128
  | .rrc => v / 2 + 128 * (v % 2)
  | .rl => 2 * v % 256 + carryIn c
  | .rr => v / 2 + 128 * carryIn c
  | .sla => 2 * v % 256
  | .sra => v / 2 + 128 * (v / 128)
  | .sll => 2 * v % 256 + 1
  | .srl => v / 2

/-- The bit each rotate or shift moves out: bit 7 to the left, bit 0 to the right (R350). -/
def rotOut (o : RotOp) (v : Nat) : Bool :=
  match o with
  | .rlc => decide (128 ≤ v)
  | .rrc => decide (v % 2 = 1)
  | .rl => decide (128 ≤ v)
  | .rr => decide (v % 2 = 1)
  | .sla => decide (128 ≤ v)
  | .sra => decide (v % 2 = 1)
  | .sll => decide (128 ≤ v)
  | .srl => decide (v % 2 = 1)

/-- A rotate or shift of a byte that writes every flag (R350). -/
def RotResult (o : RotOp) (f v res f' : Byte) : Prop :=
  res.toNat = rotNumber o (flagC f) v.toNat ∧
  ResultFlags res f' ∧
  flagH f' = false ∧
  flagPV f' = evenOnes res ∧
  flagN f' = false ∧
  flagC f' = rotOut o v.toNat

/-- An accumulator rotate: S, Z and PV are kept (R351 to R354). -/
def RotAccResult (o : RotOp) (a f a' f' : Byte) : Prop :=
  a'.toNat = rotNumber o (flagC f) a.toNat ∧
  KeepsSZP f f' ∧
  flagY f' = a'.getLsbD 5 ∧
  flagH f' = false ∧
  flagX f' = a'.getLsbD 3 ∧
  flagN f' = false ∧
  flagC f' = rotOut o a.toNat

/-- The flags of a byte that was read or made, with C kept (R451, R387). -/
def ReadFlags (f v f' : Byte) : Prop :=
  ResultFlags v f' ∧ flagH f' = false ∧ flagPV f' = evenOnes v ∧ flagN f' = false ∧ flagC f' = flagC f

/-- The flags of a bit test, with Y and X from a byte (R400 to R402). -/
def BitFlags (f : Byte) (b : Fin 8) (v yx f' : Byte) : Prop :=
  flagS f' = (decide (b.val = 7) && v.getLsbD b.val) ∧
  flagZ f' = !v.getLsbD b.val ∧
  flagY f' = yx.getLsbD 5 ∧
  flagH f' = true ∧
  flagX f' = yx.getLsbD 3 ∧
  flagPV f' = !v.getLsbD b.val ∧
  flagN f' = false ∧
  flagC f' = flagC f

/-- The flags of a block transfer, from A, the byte moved and the new BC (R225). -/
def BlockLoadFlags (f a v : Byte) (bc : Word) (f' : Byte) : Prop :=
  flagS f' = flagS f ∧
  flagZ f' = flagZ f ∧
  flagY f' = decide ((a.toNat + v.toNat) / 2 % 2 = 1) ∧
  flagH f' = false ∧
  flagX f' = decide ((a.toNat + v.toNat) / 8 % 2 = 1) ∧
  flagPV f' = decide (bc.toNat ≠ 0) ∧
  flagN f' = false ∧
  flagC f' = flagC f

/-- The flags of a block comparison, from A, the byte read and the new BC (R229). -/
def BlockCompareFlags (f a v : Byte) (bc : Word) (f' : Byte) : Prop :=
  flagS f' = decide (128 ≤ (a.toNat + 256 - v.toNat) % 256) ∧
  flagZ f' = decide (a = v) ∧
  flagY f' = decide ((a.toNat + 256 - v.toNat - carryIn (flagH f')) / 2 % 2 = 1) ∧
  flagH f' = decide (a.toNat % 16 < v.toNat % 16) ∧
  flagX f' = decide ((a.toNat + 256 - v.toNat - carryIn (flagH f')) / 8 % 2 = 1) ∧
  flagPV f' = decide (bc.toNat ≠ 0) ∧
  flagN f' = true ∧
  flagC f' = flagC f

/-- The flags of a block input or output, from the new B, the byte and the sum k (R449). -/
def BlockIoFlags (b v : Byte) (k : Nat) (f' : Byte) : Prop :=
  ResultFlags b f' ∧
  flagH f' = decide (255 < k) ∧
  flagPV f' = evenOnes (BitVec.ofNat 8 (k % 8) ^^^ b) ∧
  flagN f' = decide (128 ≤ v.toNat) ∧
  flagC f' = decide (255 < k)

/-- The correction DAA applies, from A, H and C (R300). -/
def daaCorrection (a : Nat) (h c : Bool) : Nat :=
  (if h || decide (9 < a % 16) then 6 else 0) + (if c || decide (153 < a) then 96 else 0)

/-- DAA's result and flags (R300). -/
def DaaResult (a f a' f' : Byte) : Prop :=
  a'.toNat =
    (if flagN f then a.toNat + 256 - daaCorrection a.toNat (flagH f) (flagC f)
     else a.toNat + daaCorrection a.toNat (flagH f) (flagC f)) % 256 ∧
  ResultFlags a' f' ∧
  flagH f' = (a.getLsbD 4 != a'.getLsbD 4) ∧
  flagPV f' = evenOnes a' ∧
  flagN f' = flagN f ∧
  flagC f' = (flagC f || decide (153 < a.toNat))

/-- Packed BCD: both digits are at most 9. -/
def isBcd (v : Byte) : Bool := decide (v.toNat % 16 ≤ 9) && decide (v.toNat / 16 ≤ 9)

/-- The number a packed BCD byte stands for. -/
def bcdNumber (v : Byte) : Nat := v.toNat / 16 * 10 + v.toNat % 16

/-- The state after a push of `v` from the stack pointer of `s`: nothing but SP and the two bytes stored differs. -/
def Pushed (v : Word) (s u t : State) : Prop :=
  StoredWord (s.sp - 2) v s t ∧ t = { u with sp := s.sp - 2, cost := t.cost }

/-! ### Interrupts -/

/-- The address an acceptance saves: of the next instruction, or of the one after the HALT (R489). -/
def State.resumeAt (s : State) : Word := if s.halt then s.pc + 1 else s.pc

/-- A step from `s` accepts no interrupt (R481, R485). -/
def State.NoAcceptance (s : State) : Prop :=
  s.intDefer = true ∨ (s.nmiPending = false ∧ (s.iff1 = false ∨ s.irqRequested = false))

/-- A step from `s` accepts the maskable interrupt (R485). -/
def State.AcceptsIrq (s : State) : Prop :=
  s.intDefer = false ∧ s.nmiPending = false ∧ s.iff1 = true ∧ s.irqRequested = true

/-- The acknowledge of an acceptance, as bus events: of the device whose request is taken, in every mode, or with no
chain by `IrqAck(0)` in modes 0 and 2 and none in mode 1 (R491). -/
def State.ackEvs (s : State) : List BusEvent :=
  if s.nDev = 0 then (if s.im = .im1 then [] else [.irqAck 0 s.hearDatum])
  else
    match s.requestDev with
    | some d => [.deviceEntry d s.hearDatum]
    | none => []

/-- The start of a maskable acceptance: a chain's grant is taken before its device is told (R491, R503). -/
def State.taken (s : State) : State :=
  { s.beginStep with requestDev := if s.nDev = 0 then s.requestDev else none }

/-- A maskable acceptance with these bus operations and no others changes nothing but PC, SP, IFF1, IFF2, HALT, the
grant it takes, and what the host changes in those operations (R491, R496). -/
def MaskableFrame (evs : List BusEvent) (s t : State) : Prop :=
  t.bus = evs ∧
  t =
    { s.taken.after evs with
      pc := t.pc
      sp := t.sp
      iff1 := false
      iff2 := false
      halt := false
      cost := t.cost }

/-! ### Block instructions -/

/-- One block transfer, the pointers moving to `hl'` and `de'` (R225, R227). -/
def BlockLoadPost (hl' de' : Word) (s u t : State) : Prop :=
  t.hl = hl' ∧
  t.de = de' ∧
  t.bc.toNat = (s.bc.toNat + 65535) % 65536 ∧
  StoredByte s.de (s.hear s.hl) s t ∧
  BlockLoadFlags s.f s.a (s.hear s.hl) t.bc t.f ∧
  t =
    { u with
      f := t.f
      b := t.b
      c := t.c
      d := t.d
      e := t.e
      h := t.h
      l := t.l
      pc := t.pc
      cost := t.cost }

/-- One block comparison, HL moving to `hl'` (R229, R231). -/
def BlockComparePost (hl' : Word) (s u t : State) : Prop :=
  t.hl = hl' ∧
  t.bc.toNat = (s.bc.toNat + 65535) % 65536 ∧
  BlockCompareFlags s.f s.a (s.hear s.hl) t.bc t.f ∧
  t = { u with f := t.f, b := t.b, c := t.c, h := t.h, l := t.l, pc := t.pc, cost := t.cost }

/-- One block input of the byte `v`, HL moving to `hl'`, with the sum k (R449). -/
def BlockInPost (hl' : Word) (v : Byte) (k : Nat) (s u t : State) : Prop :=
  t.b.toNat = (s.b.toNat + 255) % 256 ∧
  t.hl = hl' ∧
  StoredByte s.hl v s t ∧
  BlockIoFlags t.b v k t.f ∧
  t = { u with f := t.f, b := t.b, h := t.h, l := t.l, pc := t.pc, cost := t.cost }

/-- One block output of the byte at HL, HL moving to `hl'`, with the sum k (R449). -/
def BlockOutPost (hl' : Word) (k : Nat) (s u t : State) : Prop :=
  t.b.toNat = (s.b.toNat + 255) % 256 ∧
  t.hl = hl' ∧
  BlockIoFlags t.b (s.hear s.hl) k t.f ∧
  t = { u with f := t.f, b := t.b, h := t.h, l := t.l, pc := t.pc, cost := t.cost }

/-- A repeating instruction that goes on: PC is back at its first byte (R554). -/
def Repeats (s t : State) : Prop := t.pc = s.pc - 2

/-- A repeating instruction that ends, or one that does not repeat: PC is as the fetch left it. -/
def Ends (s t : State) : Prop := t.pc = s.pc

/-! ### Runs -/

/-- `n` steps: the T-states they cost in all, and the state after them. -/
def runFor : Nat → State → Option (Nat × State)
  | 0, s => some (0, s)
  | n + 1, s =>
    match step s with
    | .next t => (runFor n t).map fun r => (t.cost + r.1, r.2)
    | .fault _ => none
    | .refused _ => none

/-- A latch that keeps `execute` from returning is set (R570). -/
abbrev State.Latched (s : State) : Prop := s.intDefer = true ∨ s.xyMode ≠ none

/-- EI and the prefixes, the instructions that set such a latch (R550, R551). -/
def Latches (i : Instr) : Prop := i.core = .ei ∨ i.core = .prefixIx ∨ i.core = .prefixIy

/-! ### The register port -/

/-- The value the port reads back after writing `v` to a register it may write (R575). -/
def portValue (reg : PortReg) (v : Word) : Word :=
  match reg with
  | .a | .f | .b | .c | .d | .e | .h | .l | .ixh | .ixl | .iyh | .iyl | .i | .r => BitVec.ofNat 16 (v.toNat % 256)
  | .iff1 | .iff2 | .halt => if v.toNat = 0 then 0 else 1
  | _ => v

/-- The registers the port refuses to write (R575). -/
def portReadOnly (reg : PortReg) : Bool :=
  match reg with
  | .prepc | .nmiLine | .nmiPending | .irqLine | .dc _ | .requestDev | .serviceDev => true
  | _ => false

/-- The 8-bit registers a register of the port is composed of, or it alone (R31, R575). -/
def PortReg.parts (reg : PortReg) : List PortReg :=
  match reg with
  | .af => [.a, .f]
  | .bc => [.b, .c]
  | .de => [.d, .e]
  | .hl => [.h, .l]
  | .ix => [.ixh, .ixl]
  | .iy => [.iyh, .iyl]
  | _ => [reg]

end Sys2Proof.Machine
end

