-- ==== Sys2Proof/Certificates/Slice0/Obligations.lean ====
section
/-! DEFINITION. The statements for the provers: each formalises what the spec says an instruction, the step or the host's
operations do. Flags are said by arithmetic on numbers (Sys2Proof/Safety.lean). -/

open Sys2Proof Sys2Proof.Machine

/-- For every well-formed instruction, with every operand at every value: decoding the bytes its step reads, in its
index mode and with any bytes after them, gives the instruction and those bytes; and decoding its whole encoding,
prefix byte included, gives the instruction and nothing left over. Rests on R131, R132, R139, R142, R143, R144, R145,
R146. -/
def Obligations.DecodeOfEncodeIsIdentity : Prop :=
  ∀ (i : Instr) (rest : List Byte), i.wf = true →
    decode i.mode (i.encodeOp ++ rest) = .ok (i, rest) ∧ decodeBytes (encode i) = .ok (i, [])

/-- For every index mode and every four bytes, the decoded instruction is well formed, belongs to that mode, and its
encoding is exactly the first bytes of the four, as many as its format reads: no encoding traps, none is reserved, and
no bit is dropped. Rests on R130, R131, R139, R141, R147. -/
def Obligations.EveryByteSequenceIsAnInstruction : Prop :=
  ∀ (m : Option Index) (b0 b1 b2 b3 : Byte),
    (decodeWindow m b0 b1 b2 b3).wf = true ∧
    (decodeWindow m b0 b1 b2 b3).mode = m ∧
    (decodeWindow m b0 b1 b2 b3).encodeOp = [b0, b1, b2, b3].take (decodeWindow m b0 b1 b2 b3).stepLength

/-- Seventeen byte sequences taken from the encoding rules (3E n, 78, 01 nn, EB, ED B0, 86, 27, ED 5A, CB 36, FD CB d
7E, C2 nn, ED 78, DD 7E d, DD 65, DD 41, ED 00, FD CB d 38) decode to the instructions the spec names for them. Rests
on R131, R133, R138, R142, R143, R144, R145, R146. -/
def Obligations.WordsFromTheTablesDecode : Prop :=
  decodeBytes [0x3E, 0x05] = .ok (.ldRN .a 0x05, []) ∧
  decodeBytes [0x78] = .ok (.ldRR .a .b, []) ∧
  decodeBytes [0x01, 0x34, 0x12] = .ok (.ldDdNn .bc 0x1234, []) ∧
  decodeBytes [0xEB] = .ok (.exDeHl, []) ∧
  decodeBytes [0xED, 0xB0] = .ok (.ldir, []) ∧
  decodeBytes [0x86] = .ok (.addAIndHl, []) ∧
  decodeBytes [0x27] = .ok (.daa, []) ∧
  decodeBytes [0xED, 0x5A] = .ok (.adcHlSs .de, []) ∧
  decodeBytes [0xCB, 0x36] = .ok (.sllIndHl, []) ∧
  decodeBytes [0xFD, 0xCB, 0xFE, 0x7E] = .ok (.bitBIndXy .iy 0xFE 7, []) ∧
  decodeBytes [0xC2, 0x34, 0x12] = .ok (.jpCcNn .nz 0x1234, []) ∧
  decodeBytes [0xED, 0x78] = .ok (.inRC .a, []) ∧
  decodeBytes [0xDD, 0x7E, 0xFE] = .ok (.ldRIndXy .ix .a 0xFE, []) ∧
  decodeBytes [0xDD, 0x65] = .ok (.ldPP .ix .xh .xl, []) ∧
  decodeBytes [0xDD, 0x41] = .ok (.unaffected .ix (.ldRR .b .c), []) ∧
  decodeBytes [0xED, 0x00] = .ok (.edNop 0x00, []) ∧
  decodeBytes [0xFD, 0xCB, 0xFF, 0x38] = .ok (.srlIndXyR .iy 0xFF .b, [])

/-- For every state and every word of at most 32 bits that the table decoder reads as an instruction i, the state in
which the word is placed has i as the instruction at PC in the index mode in force, and its step is exactly the
meaning of i after the fetches of its format. (How a word is placed is the model's convention, log entries 1 and 11.)
Rests on R139, R140, R481. -/
def Obligations.PlacedTableWordIsRunNext : Prop :=
  ∀ (s : State) (nbits w : Nat) (i : Instr), nbits ≤ 32 → decodeTableWord nbits w = some i →
    (s.withFetchWord nbits w).nextInstr = i ∧
    step (s.withFetchWord nbits w) =
      exec i (fetchBytes i.format (s.withFetchWord nbits w).beginStep.endDefer.startInstr)

/-- For every state and every well-formed instruction of the index mode in force whose bytes the next fetches hear
from PC on: if the core is not halted and no interrupt is accepted, the step is the meaning of that instruction in the
state after its opcode reads and then its argument reads, in order and no others, where PC has passed its bytes,
R.count has advanced by its opcode fetches, PREPC is written unless the step follows a prefix, and XYMODE and INTDEFER
are cleared. The fetches hear the bytes that stand at PC if the host changes no memory from inside the operations to
come and answers from it. Rests on R40, R42, R58, R59, R103, R104, R131, R139, R481. -/
def Obligations.StepRunsTheInstructionAtPc : Prop :=
  ∀ (s : State) (i : Instr), i.wf = true → i.mode = s.xyMode → s.halt = false → s.NoAcceptance →
    (s.Fetches i →
      step s =
        exec i
          { s.beginStep.after (fetchEvs i s.pc) with
            pc := s.pc + BitVec.ofNat 16 i.stepLength
            rCount := s.rCount + BitVec.ofNat 7 i.format.opcodeReads
            prepc := if s.xyMode = none then s.pc else s.prepc
            xyMode := none
            intDefer := false }) ∧
    (s.PlainMemory → (∀ k (h : k < i.encodeOp.length), s.peek (s.pc + BitVec.ofNat 16 k) = i.encodeOp[k]) → s.Fetches i)

/-- No state stops the machine: a step of any state answers a next state, and so does the meaning of any instruction
in any state. There is no fault and no refusal. Rests on R14, R147, R480, R510. -/
def Obligations.EveryStepCompletes : Prop :=
  (∀ s : State, Safe (step s)) ∧ ∀ (i : Instr) (s : State), Safe (exec i s)

/-- The invariant (canonical memory; an index mode only under INTDEFER; no deferral while halted; at most MAX_DAISY
devices; the device under service and the grant are those the controller's scan gives, or the grant has been taken)
holds after a step from every state in which it holds. Rests on R58, R59, R70, R308, R313, R500, R502, R503. -/
def Obligations.StepKeepsTheInvariant : Prop :=
  ∀ s t : State, s.Inv → step s = .next t → t.Inv

/-- The invariant that every step keeps holds of the state after reset. Rests on R90. -/
def Obligations.ResetMeetsTheInvariant : Prop :=
  State.reset.Inv

/-- From a state that meets the invariant, a reset with any chain, either line setter with any report, a change of
memory by the host, and, where INTDEFER is clear as it is between execute calls, a register write and a context import
give states that meet it. Rests on R73, R483, R484, R501, R540, R558, R575, R576. -/
def Obligations.HostOperationsKeepTheInvariant : Prop :=
  ∀ s : State, s.Inv →
    (∀ n t, hostReset n s = some t → t.Inv) ∧
    (∀ level, (setNmiLine level s).Inv) ∧
    (∀ line level report t, setIrqLine line level report s = some t → t.Inv) ∧
    (∀ a v, (setMemory a v s).Inv) ∧
    (s.intDefer = false → ∀ reg v t, setRegister reg v s = some t → t.Inv) ∧
    (s.intDefer = false → ∀ n x t, importContext n x s = some t → t.Inv)

/-- After reset F is 0x40, that is Z = 1 and S, Y, H, X, PV, N and C are 0. States R53. -/
def Obligations.ResetFlagRegister : Prop :=
  State.reset.f = 0x40 ∧ flagZ State.reset.f = true ∧ flagS State.reset.f = false ∧ flagY State.reset.f = false ∧
    flagH State.reset.f = false ∧ flagX State.reset.f = false ∧ flagPV State.reset.f = false ∧
    flagN State.reset.f = false ∧ flagC State.reset.f = false

/-- After reset IX = IY = 0xFFFF, PC = 0, IFF1 = IFF2 = 0, IM = 0, HALT, the lines and latches are 0, no device is
configured, requested or served, XYMODE is none, and A, BC, DE, HL, the shadow pairs, SP, I, R and PREPC are 0. The
last group is the spec's decision D4, not a statement of its source (log entry 7). Rests on R90, R541. -/
def Obligations.ResetValues : Prop :=
  State.reset.ix = 0xFFFF ∧ State.reset.iy = 0xFFFF ∧ State.reset.pc = 0 ∧ State.reset.iff1 = false ∧
    State.reset.iff2 = false ∧ State.reset.im = .im0 ∧ State.reset.halt = false ∧ State.reset.nmiLine = false ∧
    State.reset.nmiPending = false ∧ State.reset.irqLine = false ∧ State.reset.nDev = 0 ∧
    State.reset.requestDev = none ∧ State.reset.serviceDev = none ∧ State.reset.intDefer = false ∧
    State.reset.xyMode = none ∧ State.reset.a = 0 ∧ State.reset.bc = 0 ∧ State.reset.de = 0 ∧ State.reset.hl = 0 ∧
    State.reset.af2 = 0 ∧ State.reset.bc2 = 0 ∧ State.reset.de2 = 0 ∧ State.reset.hl2 = 0 ∧ State.reset.sp = 0 ∧
    State.reset.i = 0 ∧ State.reset.rValue = 0 ∧ State.reset.prepc = 0

/-- For every state and n: if n is at most MAX_DAISY, reset answers the reset state with n devices whose interrupt
state is 0, no grant and no service, and memory kept, after DeviceReset(0), DeviceReset(1), ... in order as its only
operations, so that a report made inside them counts; if the host makes none, the controller is as cleared, and if it
changes no memory, every byte reads as before; if n is larger the call is refused. (That what the host will do is
unchanged by a reset is the model's choice, log entry 21.) Rests on R90, R500, R506, R540. -/
def Obligations.HostResetConfiguresTheChain : Prop :=
  ∀ (s : State) (n : Nat),
    (n ≤ Config.maxDaisy →
      ∃ t, hostReset n s = some t ∧ t.nDev = n ∧ t.bus = (List.range n).map BusEvent.deviceReset ∧
        t =
          ({ State.reset with intState := List.replicate n 0, mem := s.mem, host := s.host, calls := s.calls } : State).after
            ((List.range n).map BusEvent.deviceReset) ∧
        (s.HostKeepsLines →
          (∀ d, d < n → t.intState[d]? = some 0) ∧ t.requestDev = none ∧ t.serviceDev = none ∧ t.nmiLine = false ∧
            t.nmiPending = false ∧ t.irqLine = false) ∧
        (s.HostKeepsMemory → ∀ a, t.peek a = s.peek a)) ∧
    (Config.maxDaisy < n → hostReset n s = none)

/-- For every state: writing an 8-bit register gives it the value and leaves every other 8-bit register and everything
else as it was; writing a pair gives its two halves the two bytes; writing a half of IX or IY leaves its other half.
There is no other aliasing: each write leaves the rest of the state alone. States R31. -/
def Obligations.WritingAHalfLeavesTheOtherHalf : Prop :=
  ∀ s : State,
    (∀ r v, (s.setR8 r v).r8 r = v ∧ KeepsExceptR8 r s (s.setR8 r v)) ∧
    (∀ p v, (s.setRp p v).rp p = v ∧ KeepsExceptRp p s (s.setRp p v)) ∧
    (∀ v, (s.setBc v).b = hiByte v ∧ (s.setBc v).c = loByte v ∧ (s.setDe v).d = hiByte v ∧ (s.setDe v).e = loByte v ∧
      (s.setHl v).h = hiByte v ∧ (s.setHl v).l = loByte v ∧ (s.setAf v).a = hiByte v ∧ (s.setAf v).f = loByte v ∧
      KeepsExceptAF s (s.setAf v)) ∧
    (∀ x v, (s.setXy x v).xy x = v ∧ KeepsExceptXy x s (s.setXy x v)) ∧
    (∀ x k v, (s.setHalf x k v).half x k = v ∧ KeepsExceptHalf x k s (s.setHalf x k v))

/-- For every state with INTDEFER clear and an NMI latched, whatever IFF1, IFF2, IM and the request lines are, the
step accepts it: the latch and IFF1 are cleared, IFF2 is kept, a halted core leaves the halted state, the return
address (of the instruction after a HALT) is pushed high byte first, PC is 0x0066, the cost is 11, the two stack
writes are the only bus operations, and nothing else changes but what the host changes inside them. States R490. -/
def Obligations.NmiAcceptance : Prop :=
  ∀ s : State, s.intDefer = false → s.nmiPending = true →
    ∃ t, step s = .next t ∧ StoredWord (s.sp - 2) s.resumeAt s t ∧ t.bus = s.pushEvs s.resumeAt ∧
      t =
        { ({ s.beginStep with nmiPending := false } : State).after (s.pushEvs s.resumeAt) with
          pc := 0x0066
          sp := s.sp - 2
          iff1 := false
          halt := false
          cost := 11 }

/-- For every state whose step accepts the maskable interrupt and whose mode is 1, with or without a chain: a chain's
grant is taken and its device told, no acknowledge is made without a chain, the return address is pushed, PC is
0x0038, the cost is 13, IFF1, IFF2 and HALT are cleared, and nothing else changes but what the host changes inside
these operations. The datum is the host's answer to the acknowledge or, where the state says none, a free value: the
model's choice, log entry 5 (DESIGN CHOICE). Rests on R485, R489, R491, R492, R496, R503. -/
def Obligations.MaskableAcceptanceMode1 : Prop :=
  ∀ s : State, s.AcceptsIrq → s.im = .im1 →
    ∃ t, step s = .next t ∧ MaskableFrame (s.ackEvs ++ s.pushEvs s.resumeAt) s t ∧ t.pc = 0x0038 ∧ t.sp = s.sp - 2 ∧
      StoredWord (s.sp - 2) s.resumeAt s t ∧ t.cost = 13

/-- For every state whose step accepts the maskable interrupt and whose mode is 0, with acknowledge datum v: if bits
23:16 of v are CD the return address is pushed and PC is bits 15:0, cost 19; if they are C3 PC is bits 15:0 and
nothing is pushed, cost 12; otherwise the return address is pushed and PC is v and 0x0038, cost 13. The acknowledge
comes first, of the granted device with a chain. IFF1, IFF2 and HALT are cleared and nothing else changes but what the
host changes inside these operations. The datum is the host's answer to the acknowledge or, where the state says none,
a free value: the model's choice, log entry 5 (DESIGN CHOICE). Rests on R485, R489, R491, R493, R496, R503. -/
def Obligations.MaskableAcceptanceMode0 : Prop :=
  ∀ (s : State) (v : Nat), s.AcceptsIrq → s.im = .im0 → v = s.hearDatum →
    ∃ t, step s = .next t ∧
      (if v / 65536 % 256 = 0xCD then
        MaskableFrame (s.ackEvs ++ s.pushEvs s.resumeAt) s t ∧ t.pc = BitVec.ofNat 16 v ∧ t.sp = s.sp - 2 ∧
          StoredWord (s.sp - 2) s.resumeAt s t ∧ t.cost = 19
      else if v / 65536 % 256 = 0xC3 then
        MaskableFrame s.ackEvs s t ∧ t.pc = BitVec.ofNat 16 v ∧ t.sp = s.sp ∧
          (s.HostKeepsMemory → ∀ a, t.peek a = s.peek a) ∧ t.cost = 12
      else
        MaskableFrame (s.ackEvs ++ s.pushEvs s.resumeAt) s t ∧ t.pc = BitVec.ofNat 16 (v / 8 % 8 * 8) ∧ t.sp = s.sp - 2 ∧
          StoredWord (s.sp - 2) s.resumeAt s t ∧ t.cost = 13)

/-- For every state whose step accepts the maskable interrupt and whose mode is 2, with acknowledge datum v: after the
acknowledge, of the granted device with a chain, the return address is pushed, then PC is read, low byte first, from
the table entry at I times 256 plus the low byte of v (after the push, modulo 65536; the bytes that stand there then,
where the host answers from memory), cost 19. IFF1, IFF2 and HALT are cleared and nothing else changes but what the
host changes inside these operations. The datum is the host's answer to the acknowledge or, where the state says none,
a free value: the model's choice, log entry 5 (DESIGN CHOICE). Rests on R485, R489, R491, R494, R496, R503. -/
def Obligations.MaskableAcceptanceMode2 : Prop :=
  ∀ (s x : State) (p : Word), s.AcceptsIrq → s.im = .im2 → p = BitVec.ofNat 16 (s.i.toNat * 256 + s.hearDatum % 256) →
    x = s.taken.after (s.ackEvs ++ s.pushEvs s.resumeAt) →
    ∃ t, step s = .next t ∧ MaskableFrame (s.ackEvs ++ s.pushEvs s.resumeAt ++ x.reads16 p) s t ∧ t.pc = x.hear16 p ∧
      (x.PlainMemory → t.pc = x.peek16 p) ∧ t.sp = s.sp - 2 ∧ StoredWord (s.sp - 2) s.resumeAt s t ∧ t.cost = 19

/-- For every halted state whose step accepts no interrupt: R.count advances by one modulo 128, the byte at PC is read
with the opcode tag and ignored, the cost is 4, INTDEFER is clear, and PC, PREPC and everything else are unchanged but
for what the host changes inside that read. Rests on R42, R481, R488. -/
def Obligations.HaltedCycleOnlyRefreshes : Prop :=
  ∀ s : State, s.halt = true → s.NoAcceptance →
    step s =
      .next
        { s.beginStep.after [.memRead .opcode s.pc (s.hear s.pc)] with
          rCount := BitVec.ofNat 7 ((s.rCount.toNat + 1) % 128)
          intDefer := false
          cost := 4 }

/-- For every state: setting the NMI line to its present level changes nothing; a rise records the level and latches
an NMI; a fall only records the level. A latched NMI is still latched after any instruction, any step with INTDEFER
set and any setting of the NMI line: edges are not counted and it cannot be cancelled. A step with INTDEFER clear
accepts it and clears the latch, if the host calls no setter inside it. The IRQ setter, a change of memory and a
register write leave the latch as it was; a step whose operations the host does not use to call a setter latches none;
a reset clears the latch, but for an edge the host makes inside a device's reset; a context import replaces it with
the exported one. Rests on R483, R484, R490, R540, R558, R575, R576. -/
def Obligations.NmiLineIsEdgeTriggered : Prop :=
  ∀ s : State,
    setNmiLine s.nmiLine s = s ∧
    (s.nmiLine = false → setNmiLine true s = { s with nmiLine := true, nmiPending := true }) ∧
    (s.nmiLine = true → setNmiLine false s = { s with nmiLine := false }) ∧
    (s.nmiPending = true →
      (∀ level, (setNmiLine level s).nmiPending = true) ∧
      (∀ t, s.intDefer = true → step s = .next t → t.nmiPending = true) ∧
      (∀ i t, exec i s = .next t → t.nmiPending = true) ∧
      (∀ t, s.intDefer = false → s.HostKeepsLines → step s = .next t → t.nmiPending = false)) ∧
    (∀ line level report t, setIrqLine line level report s = some t → t.nmiPending = s.nmiPending) ∧
    (∀ a v, (setMemory a v s).nmiPending = s.nmiPending) ∧
    (∀ reg v t, setRegister reg v s = some t → t.nmiPending = s.nmiPending) ∧
    (s.nmiPending = false → s.HostKeepsLines → ∀ t, step s = .next t → t.nmiPending = false) ∧
    (s.HostKeepsLines → ∀ n t, hostReset n s = some t → t.nmiPending = false) ∧
    ∀ n x t, importContext n x s = some t → t.nmiPending = x.nmiPending

/-- For every state with no chain, setting line 0 records the level and changes nothing else; for every state, any
other line is refused; and the request of the acceptance test is the line without a chain and the grant with one, in
which case the line plays no part. With a chain: a deassertion only records the level; an assertion with a report from
a device not in the chain, or of a state already stored, only records the level; an assertion with a new state stores
it and recomputes the grant and the service; an assertion without a report, which R501 does not have, only records the
level (the model's choice, log entry 22, DESIGN CHOICE). Rests on R484, R485, R501. -/
def Obligations.IrqLineAndStateReports : Prop :=
  ∀ (s : State) (level : Bool) (report : Option (Nat × Byte)),
    (s.nDev = 0 → setIrqLine 0 level report s = some { s with irqLine := level }) ∧
    (∀ line, line ≠ 0 → setIrqLine line level report s = none) ∧
    (s.nDev = 0 → s.irqRequested = s.irqLine) ∧
    (s.nDev ≠ 0 →
      ((s.irqRequested = true ↔ ∃ d, s.requestDev = some d) ∧
        { s with irqLine := level }.irqRequested = s.irqRequested) ∧
      setIrqLine 0 false report s = some { s with irqLine := false } ∧
      setIrqLine 0 true none s = some { s with irqLine := true } ∧
      ∀ d v,
        (s.nDev ≤ d → setIrqLine 0 true (some (d, v)) s = some { s with irqLine := true }) ∧
        (s.intState[d]? = some v → setIrqLine 0 true (some (d, v)) s = some { s with irqLine := true }) ∧
        ∀ old, s.intState[d]? = some old → old ≠ v →
          setIrqLine 0 true (some (d, v)) s =
            some { s with toShared := { s.toShared with irqLine := true, intState := s.intState.set d v }.recompute })

/-- For every state with INTDEFER set, changing the NMI latch, the IRQ line or the controller's grant changes the
outcome of the step in those fields alone: neither interrupt is accepted in that step. Where the host calls no setter
inside the step, those fields keep what they were changed to. Rests on R58, R481, R550, R551. -/
def Obligations.DeferredStepIgnoresInterrupts : Prop :=
  ∀ (s : State) (p q : Bool) (g : Option Nat), s.intDefer = true →
    ∃ t t', step s = .next t ∧ step { s with nmiPending := p, irqLine := q, requestDev := g } = .next t' ∧
      t' = { t with nmiPending := t'.nmiPending, irqLine := t'.irqLine, requestDev := t'.requestDev } ∧
      (s.HostKeepsLines → t'.nmiPending = p ∧ t'.irqLine = q ∧ t'.requestDev = g)

/-- For every state, operation and port or memory address: the operation is recorded and used up, and changes nothing
but what is shared with the host; what the host does inside it is, in order, the same as its calls of the setters and
its changes of memory between steps; where it does nothing, only the byte written changes. A read hears the host's
answer, whatever it is, or else the byte that stands there (a port or acknowledge: a free value). After any operations
memory reads as their writes leave it if the host changes none itself, and if it also answers from memory each read
hears the byte that stands there. That the host's part is a list in the state, and what it is past its end, is the
model's choice (log entries 4 and 5, DESIGN CHOICE). Rests on R73, R100, R106, R107, R110, R111, R114, R115, R122,
R558. -/
def Obligations.OperationsOnTheHost : Prop :=
  ∀ (s : State) (ev : BusEvent) (evs : List BusEvent) (a : Word) (p : Word),
    (s.after [ev] = { s with toShared := (s.after [ev]).toShared } ∧ (s.after [ev]).bus = s.bus ++ [ev] ∧
      (s.after [ev]).host = s.host.drop 1 ∧ (s.after [ev]).calls = s.calls + 1) ∧
    (s.host = [] ∨ (∃ c cs, s.host = c :: cs ∧ c.acts = []) →
      (∀ b, (s.after [ev]).peek b = written [ev] b (s.peek b)) ∧
      s.after [ev] =
        { s with mem := (s.after [ev]).mem, host := s.host.drop 1, calls := s.calls + 1, bus := s.bus ++ [ev] }) ∧
    (∀ c cs, s.host = c :: cs →
      s.after [ev] = c.acts.foldl hostDoes (({ s with host := { c with acts := [] } :: cs } : State).after [ev])) ∧
    (∀ c cs n, s.host = c :: cs → c.answer = some n →
      s.hear a = BitVec.ofNat 8 n ∧ s.hearPort p = BitVec.ofNat 8 n ∧ s.hearDatum = n) ∧
    (s.host = [] ∨ (∃ c cs, s.host = c :: cs ∧ c.answer = none) →
      s.hear a = s.peek a ∧ s.hearPort p = Config.freePortByte s.calls p ∧ s.hearDatum = Config.freeAckDatum s.calls) ∧
    (s.HostKeepsMemory → ∀ b, (s.after evs).peek b = written evs b (s.peek b)) ∧
    (s.PlainMemory → (s.after evs).hear a = written evs a (s.peek a))

/-- For every state of the controller, after a recomputation: device d is granted exactly if it requests and no device
above it requests or holds IEO; device d is under service exactly if it holds IEO and none above it does; and nothing
else changes. Rests on R502, R504. -/
def Obligations.RecomputeGrantsTheFirstUnblockedRequest : Prop :=
  ∀ h : Shared,
    (∀ d, h.recompute.requestDev = some d ↔
      devReq (h.intState.getD d 0) = true ∧
        ∀ e, e < d → devReq (h.intState.getD e 0) = false ∧ devIeo (h.intState.getD e 0) = false) ∧
    (∀ d, h.recompute.serviceDev = some d ↔
      devIeo (h.intState.getD d 0) = true ∧ ∀ e, e < d → devIeo (h.intState.getD e 0) = false) ∧
    h.recompute = { h with requestDev := h.recompute.requestDev, serviceDev := h.recompute.serviceDev }

/-- For every instruction and state, the bus record after the meaning is the record before it followed by more
operations, among which there is no opcode or argument read, no acknowledge, no device entry and no device reset: only
data accesses, port accesses and the RETI notification. Memory, the lines, the latch, the controller and all the rest
that is shared with the host are exactly as those operations leave them. Rests on R100, R102, R111, R114, R115, R122.
-/
def Obligations.MeaningsOnlyAddDataOperations : Prop :=
  ∀ (i : Instr) (s t : State), exec i s = .next t →
    ∃ evs, t.bus = s.bus ++ evs ∧ t.toShared = (s.after evs).toShared ∧
      ∀ ev, ev ∈ evs →
        (∃ a v, ev = .memRead .data a v) ∨ (∃ a v, ev = .memWrite a v) ∨ (∃ p v, ev = .portRead p v) ∨
          (∃ p v, ev = .portWrite p v) ∨ ∃ d, ev = .deviceReti d

/-- For every instruction and state: unless it is EX AF,AF' (perhaps behind a prefix), AF2 is unchanged; unless it is
EXX, BC2, DE2 and HL2 are unchanged. Rests on R32, R221, R222. -/
def Obligations.ShadowPairsAreOnlyExchanged : Prop :=
  ∀ (i : Instr) (s t : State), exec i s = .next t →
    (i.core ≠ .exAfAf2 → t.af2 = s.af2) ∧ (i.core ≠ .exx → t.bc2 = s.bc2 ∧ t.de2 = s.de2 ∧ t.hl2 = s.hl2)

/-- For every instruction and state: I changes only by LD I,A; R only by LD R,A (the fetches apart); IFF1 only by EI,
DI, RETN, its aliases and RETI; IFF2 only by EI and DI; IM only by IM 0, 1, 2 and their aliases; HALT only by HALT;
XYMODE only by a prefix; INTDEFER only by a prefix or EI; PREPC by none; and the lines, the NMI latch and the
controller state by none, if the host calls no setter inside its operations. Rests on R40, R41, R42, R43, R44, R45,
R46, R55, R56, R57, R58, R59. -/
def Obligations.ControlStateIsChangedOnlyByItsInstructions : Prop :=
  ∀ (i : Instr) (s t : State), exec i s = .next t →
    (i.core ≠ .ldIA → t.i = s.i) ∧
    (i.core ≠ .ldRefA → t.rCount = s.rCount ∧ t.rB7 = s.rB7) ∧
    (i.core ≠ .ei → i.core ≠ .di → i.core ≠ .retn → i.core ≠ .reti → (∀ y, i.core ≠ .retnAlias y) → t.iff1 = s.iff1) ∧
    (i.core ≠ .ei → i.core ≠ .di → t.iff2 = s.iff2) ∧
    (i.core ≠ .im0 → (∀ y, i.core ≠ .im0Alias y) → i.core ≠ .im1 → i.core ≠ .im1Alias → i.core ≠ .im2 →
      i.core ≠ .im2Alias → t.im = s.im) ∧
    (i.core ≠ .halt → t.halt = s.halt) ∧
    (i.core ≠ .prefixIx → i.core ≠ .prefixIy → t.xyMode = s.xyMode ∧ (i.core ≠ .ei → t.intDefer = s.intDefer)) ∧
    t.prepc = s.prepc ∧
    (s.HostKeepsLines →
      t.nmiLine = s.nmiLine ∧ t.nmiPending = s.nmiPending ∧ t.irqLine = s.irqLine ∧ t.intState = s.intState ∧
        t.requestDev = s.requestDev ∧ t.serviceDev = s.serviceDev)

/-- For every instruction and state: one that is not among the storing instructions writes no memory on the bus and
leaves every byte as it was, if the host changes none itself; one that is not an input or output instruction makes no
port access. Rests on R71, R100, R107, R108, R110, R114. -/
def Obligations.MemoryAndPortsAreReachedOnlyByTheirInstructions : Prop :=
  ∀ (i : Instr) (s t : State), exec i s = .next t →
    ∃ evs, t.bus = s.bus ++ evs ∧
      (i.storesMemory = false →
        (∀ a v, BusEvent.memWrite a v ∉ evs) ∧ (s.HostKeepsMemory → t.mem = s.mem ∧ ∀ a, t.peek a = s.peek a)) ∧
      (i.reachesPorts = false → (∀ p v, BusEvent.portRead p v ∉ evs) ∧ ∀ p v, BusEvent.portWrite p v ∉ evs)

/-- For every state and every instruction of the rows of the flag table that keep every flag (the loads but LD A,I and
LD A,R, the exchanges but EX AF,AF', PUSH, POP but POP AF, 16-bit INC and DEC, SET, RES, jumps, calls, returns, OUT,
IN A,(n), NOP, ED-NOP, HALT, DI, EI, IM, the prefixes), F is unchanged. Rests on R51. -/
def Obligations.FlagsAreKeptByEveryOtherInstruction : Prop :=
  ∀ (i : Instr) (s t : State), i.keepsFlags = true → exec i s = .next t → t.f = s.f

/-- For every state, the cost its step reports lies between 4 and 21 T-states, so a budget is used up in boundedly
many steps. The bound is of the table the spec recommends for its parameter TSTATES; that the model takes it is its
choice (log entry 14, DESIGN CHOICE). Rests on R560, R561, R562, R563, R564, R565. -/
def Obligations.StepCostIsBounded : Prop :=
  ∀ s t : State, step s = .next t → 4 ≤ t.cost ∧ t.cost ≤ 21

/-- For every index register, instruction and state, the fallen-through instruction answers a next state, and it is
the very state the base instruction answers. Rests on R135, R141. -/
def Obligations.FallThroughIsTheBaseInstruction : Prop :=
  ∀ (x : Index) (i : Instr) (s : State), ∃ t, exec (.unaffected x i) s = .next t ∧ exec i s = .next t

/-- For every state, index register and displacement, the operand address is XY plus the displacement read as a signed
number, modulo 65536; and the condition with code c holds exactly if the flag number c/2 of Z, C, PV, S equals the low
bit of c. Rests on R10, R136, R138, R420. -/
def Obligations.IndexedAddressAndConditions : Prop :=
  (∀ (s : State) (x : Index) (d : Byte), s.ea x d = BitVec.ofInt 16 ((s.xy x).toNat + d.toInt)) ∧
  ∀ (f : Byte) (c : Fin 8),
    condHolds f (Cond.ofCode c) =
      ((if c.val / 2 = 0 then flagZ f else if c.val / 2 = 1 then flagC f else if c.val / 2 = 2 then flagPV f else flagS f)
        == decide (c.val % 2 = 1))

/-- For every state and operands, LD r,r' (4 T-states), LD r,n (7), LD p,p' (4 after the prefix) and LD XYh/XYl,n (7
after the prefix) complete with no bus operation: the destination holds the source's old value or the immediate, and
every other register, F, PC and memory are unchanged. Rests on R170, R171, R188, R189. -/
def Obligations.LoadsBetweenRegisters : Prop :=
  ∀ s : State,
    (∀ r r', Completes (.ldRR r r') s 4 [] fun u t => t.r8 r = s.r8 r' ∧ KeepsExceptR8 r u t) ∧
    (∀ r n, Completes (.ldRN r n) s 7 [] fun u t => t.r8 r = n ∧ KeepsExceptR8 r u t) ∧
    (∀ x p p', Completes (.ldPP x p p') s 4 [] fun u t => t.ir8 x p = s.ir8 x p' ∧ KeepsExceptIr8 x p u t) ∧
    (∀ x k n, Completes (.ldXyHalfN x k n) s 7 [] fun u t => t.half x k = n ∧ KeepsExceptHalf x k u t)

/-- For every state and operands, LD r,(HL) (7), LD r,(XY+d) (15 after the prefix, real H and L), LD A,(BC), LD A,(DE)
(7) and LD A,(nn) (13) complete with one data read at their address: the register holds that byte and everything else
is unchanged. (A byte read is what the host returns; what the host changes inside the bus operations is as it left it,
memory as the writes leave it if it changes none.) Rests on R172, R173, R178, R179, R180. -/
def Obligations.LoadsOfAByteFromMemory : Prop :=
  ∀ s : State,
    (∀ r, Completes (.ldRIndHl r) s 7 [s.readEv s.hl] fun u t => t.r8 r = s.hear s.hl ∧ KeepsExceptR8 r u t) ∧
    (∀ x r d, Completes (.ldRIndXy x r d) s 15 [s.readEv (s.ea x d)] fun u t =>
      t.r8 r = s.hear (s.ea x d) ∧ KeepsExceptR8 r u t) ∧
    (Completes .ldAIndBc s 7 [s.readEv s.bc] fun u t => t.a = s.hear s.bc ∧ KeepsExceptR8 .a u t) ∧
    (Completes .ldAIndDe s 7 [s.readEv s.de] fun u t => t.a = s.hear s.de ∧ KeepsExceptR8 .a u t) ∧
    ∀ nn, Completes (.ldAIndNn nn) s 13 [s.readEv nn] fun u t => t.a = s.hear nn ∧ KeepsExceptR8 .a u t

/-- For every state and operands, each of the seven byte stores completes with one memory write: the byte stands at
the address its rule computes, every other address reads as before, and every register and flag is unchanged. Costs 7,
15, 10, 15, 7, 7, 13 (the indexed forms after the prefix). (A byte read is what the host returns; what the host
changes inside the bus operations is as it left it, memory as the writes leave it if it changes none.) Rests on R174,
R175, R176, R177, R181, R182, R183. -/
def Obligations.StoresOfAByte : Prop :=
  ∀ s : State,
    (∀ r, Completes (.ldIndHlR r) s 7 [.memWrite s.hl (s.r8 r)] fun u t =>
      StoredByte s.hl (s.r8 r) s t ∧ KeepsAll u t) ∧
    (∀ x d r, Completes (.ldIndXyR x d r) s 15 [.memWrite (s.ea x d) (s.r8 r)] fun u t =>
      StoredByte (s.ea x d) (s.r8 r) s t ∧ KeepsAll u t) ∧
    (∀ n, Completes (.ldIndHlN n) s 10 [.memWrite s.hl n] fun u t => StoredByte s.hl n s t ∧ KeepsAll u t) ∧
    (∀ x d n, Completes (.ldIndXyN x d n) s 15 [.memWrite (s.ea x d) n] fun u t =>
      StoredByte (s.ea x d) n s t ∧ KeepsAll u t) ∧
    (Completes .ldIndBcA s 7 [.memWrite s.bc s.a] fun u t => StoredByte s.bc s.a s t ∧ KeepsAll u t) ∧
    (Completes .ldIndDeA s 7 [.memWrite s.de s.a] fun u t => StoredByte s.de s.a s t ∧ KeepsAll u t) ∧
    ∀ nn, Completes (.ldIndNnA nn) s 13 [.memWrite nn s.a] fun u t => StoredByte nn s.a s t ∧ KeepsAll u t

/-- For every state, LD A,I and LD A,R complete at 9 T-states with A the value of I, or of R.b7 and R.count, S, Z, Y,
X from it, H = N = 0, PV = IFF2, C kept and nothing else changed; LD I,A and LD R,A complete at 9 T-states, write I,
or R.count and R.b7, from A and change nothing else, F included. Rests on R184, R185, R186, R187. -/
def Obligations.LoadsOfIAndR : Prop :=
  ∀ s : State,
    (Completes .ldAI s 9 [] fun u t => t.a = s.i ∧ ResultFlags s.i t.f ∧ flagH t.f = false ∧ flagPV t.f = s.iff2 ∧
      flagN t.f = false ∧ flagC t.f = flagC s.f ∧ KeepsExceptAF u t) ∧
    (Completes .ldARef s 9 [] fun u t => t.a.toNat = s.rB7.toNat * 128 + s.rCount.toNat ∧ ResultFlags t.a t.f ∧
      flagH t.f = false ∧ flagPV t.f = s.iff2 ∧ flagN t.f = false ∧ flagC t.f = flagC s.f ∧ KeepsExceptAF u t) ∧
    (Completes .ldIA s 9 [] fun u t => t = { u with i := s.a, cost := t.cost }) ∧
    Completes .ldRefA s 9 [] fun u t =>
      t =
        { u with
          rCount := BitVec.ofNat 7 (s.a.toNat % 128)
          rB7 := BitVec.ofNat 1 (s.a.toNat / 128)
          cost := t.cost }

/-- For every state and operands, LD dd,nn, LD XY,nn, LD SP,HL and LD SP,XY complete with no bus operation and LD
HL,(nn), LD dd,(nn) and LD XY,(nn) with two data reads, low byte first, at nn and nn + 1 modulo 65536: the destination
holds the word and everything else, F included, is unchanged. Costs 10, 10, 6, 6, 16, 20, 16 (the XY forms after the
prefix). (A byte read is what the host returns; what the host changes inside the bus operations is as it left it,
memory as the writes leave it if it changes none.) Rests on R200, R201, R202, R203, R204, R208, R209. -/
def Obligations.LoadsOfAWord : Prop :=
  ∀ s : State,
    (∀ dd nn, Completes (.ldDdNn dd nn) s 10 [] fun u t => t.rp dd = nn ∧ KeepsExceptRp dd u t) ∧
    (∀ x nn, Completes (.ldXyNn x nn) s 10 [] fun u t => t.xy x = nn ∧ KeepsExceptXy x u t) ∧
    (Completes .ldSpHl s 6 [] fun u t => t.sp = s.hl ∧ KeepsExceptRp .sp u t) ∧
    (∀ x, Completes (.ldSpXy x) s 6 [] fun u t => t.sp = s.xy x ∧ KeepsExceptRp .sp u t) ∧
    (∀ nn, Completes (.ldHlIndNn nn) s 16 (s.reads16 nn) fun u t =>
      t.hl = s.hear16 nn ∧ KeepsExceptRp .hl u t) ∧
    (∀ dd nn, Completes (.ldDdIndNn dd nn) s 20 (s.reads16 nn) fun u t =>
      t.rp dd = s.hear16 nn ∧ KeepsExceptRp dd u t) ∧
    ∀ x nn, Completes (.ldXyIndNn x nn) s 16 (s.reads16 nn) fun u t =>
      t.xy x = s.hear16 nn ∧ KeepsExceptXy x u t

/-- For every state and operands, the three word stores complete with two memory writes, the low byte to nn and then
the high byte to nn + 1 modulo 65536; every other address reads as before and every register and flag is unchanged.
Costs 16, 20, 16 (the XY form after the prefix). (A byte read is what the host returns; what the host changes inside
the bus operations is as it left it, memory as the writes leave it if it changes none.) Rests on R205, R206, R207,
R107, R112, R113. -/
def Obligations.StoresOfAWord : Prop :=
  ∀ s : State,
    (∀ nn, Completes (.ldIndNnHl nn) s 16 [.memWrite nn (loByte s.hl), .memWrite (nn + 1) (hiByte s.hl)] fun u t =>
      StoredWord nn s.hl s t ∧ KeepsAll u t) ∧
    (∀ nn dd, Completes (.ldIndNnDd nn dd) s 20 [.memWrite nn (loByte (s.rp dd)), .memWrite (nn + 1) (hiByte (s.rp dd))]
      fun u t => StoredWord nn (s.rp dd) s t ∧ KeepsAll u t) ∧
    ∀ x nn, Completes (.ldIndNnXy x nn) s 16 [.memWrite nn (loByte (s.xy x)), .memWrite (nn + 1) (hiByte (s.xy x))]
      fun u t => StoredWord nn (s.xy x) s t ∧ KeepsAll u t

/-- For every state and pair, PUSH qq and PUSH XY complete at 11 T-states (after the prefix): high byte to SP - 1,
then low byte to SP - 2, SP lowered by 2, every other address and register unchanged; POP qq and POP XY complete at
10: low byte from SP, high byte from SP + 1, SP raised by 2, every other register unchanged (POP AF loads all of F).
(A byte read is what the host returns; what the host changes inside the bus operations is as it left it, memory as the
writes leave it if it changes none.) Rests on R36, R108, R109, R210, R211, R212, R213. -/
def Obligations.PushAndPop : Prop :=
  ∀ s : State,
    (∀ q, Completes (.pushQq q) s 11 (s.pushEvs (s.rq q)) fun u t => Pushed (s.rq q) s u t) ∧
    (∀ x, Completes (.pushXy x) s 11 (s.pushEvs (s.xy x)) fun u t => Pushed (s.xy x) s u t) ∧
    (∀ q, Completes (.popQq q) s 10 (s.reads16 s.sp) fun u t =>
      t.rq q = s.hear16 s.sp ∧ (∀ p, p ≠ q → t.rq p = s.rq p) ∧
      t =
        { u with
          a := t.a
          f := t.f
          b := t.b
          c := t.c
          d := t.d
          e := t.e
          h := t.h
          l := t.l
          sp := s.sp + 2
          cost := t.cost }) ∧
    ∀ x, Completes (.popXy x) s 10 (s.reads16 s.sp) fun u t =>
      t.xy x = s.hear16 s.sp ∧ (∀ y, y ≠ x → t.xy y = s.xy y) ∧
      t = { u with ix := t.ix, iy := t.iy, sp := s.sp + 2, cost := t.cost }

/-- For every state, EX DE,HL, EX AF,AF' and EXX complete at 4 T-states with no bus operation and exchange their
pairs; EX (SP),HL and EX (SP),XY complete at 19 (after the prefix) with the reads low, high and the writes high, low
of the word at SP, exchange it with the pair and leave SP; nothing else changes. (A byte read is what the host
returns; what the host changes inside the bus operations is as it left it, memory as the writes leave it if it changes
none.) Rests on R220, R221, R222, R223, R224. -/
def Obligations.Exchanges : Prop :=
  ∀ s : State,
    (Completes .exDeHl s 4 [] fun u t => t.de = s.hl ∧ t.hl = s.de ∧
      t = { u with d := t.d, e := t.e, h := t.h, l := t.l, cost := t.cost }) ∧
    (Completes .exAfAf2 s 4 [] fun u t => t.af = s.af2 ∧ t.af2 = s.af ∧
      t = { u with a := t.a, f := t.f, af2 := t.af2, cost := t.cost }) ∧
    (Completes .exx s 4 [] fun u t => t.bc = s.bc2 ∧ t.bc2 = s.bc ∧ t.de = s.de2 ∧ t.de2 = s.de ∧ t.hl = s.hl2 ∧
      t.hl2 = s.hl ∧
      t =
        { u with
          b := t.b
          c := t.c
          d := t.d
          e := t.e
          h := t.h
          l := t.l
          bc2 := t.bc2
          de2 := t.de2
          hl2 := t.hl2
          cost := t.cost }) ∧
    (Completes .exSpHl s 19
      (s.reads16 s.sp ++ [.memWrite (s.sp + 1) s.h, .memWrite s.sp s.l]) fun u t =>
        t.hl = s.hear16 s.sp ∧ StoredWord s.sp s.hl s t ∧
        t = { u with h := t.h, l := t.l, cost := t.cost }) ∧
    ∀ x, Completes (.exSpXy x) s 19
      (s.reads16 s.sp ++ [.memWrite (s.sp + 1) (hiByte (s.xy x)), .memWrite s.sp (loByte (s.xy x))])
      fun u t =>
        t.xy x = s.hear16 s.sp ∧ (∀ y, y ≠ x → t.xy y = s.xy y) ∧ StoredWord s.sp (s.xy x) s t ∧
        t = { u with ix := t.ix, iy := t.iy, cost := t.cost }

/-- For every state: LDI and LDD complete at 16 T-states with one read at HL and one write of that byte at DE, move
both pointers up or down, count BC down, set the flags of rule R225 and change nothing else. LDIR and LDDR do the
same; if the new BC is 0 they cost 16 and go on, else they cost 21 and PC is set back by 2. (A byte read is what the
host returns; what the host changes inside the bus operations is as it left it, memory as the writes leave it if it
changes none.) Rests on R225, R226, R227, R228, R554. -/
def Obligations.BlockTransfers : Prop :=
  ∀ s : State,
    (Completes .ldi s 16 [s.readEv s.hl, .memWrite s.de (s.hear s.hl)] fun u t =>
      BlockLoadPost (s.hl + 1) (s.de + 1) s u t ∧ Ends s t) ∧
    (Completes .ldd s 16 [s.readEv s.hl, .memWrite s.de (s.hear s.hl)] fun u t =>
      BlockLoadPost (s.hl - 1) (s.de - 1) s u t ∧ Ends s t) ∧
    (Completes .ldir s (if s.bc.toNat = 1 then 16 else 21) [s.readEv s.hl, .memWrite s.de (s.hear s.hl)] fun u t =>
      BlockLoadPost (s.hl + 1) (s.de + 1) s u t ∧ (if s.bc.toNat = 1 then Ends s t else Repeats s t)) ∧
    Completes .lddr s (if s.bc.toNat = 1 then 16 else 21) [s.readEv s.hl, .memWrite s.de (s.hear s.hl)] fun u t =>
      BlockLoadPost (s.hl - 1) (s.de - 1) s u t ∧ (if s.bc.toNat = 1 then Ends s t else Repeats s t)

/-- For every state: CPI and CPD complete at 16 T-states with one read at HL, move HL, count BC down, set the flags of
rule R229 with C kept and change nothing else, A included. CPIR and CPDR do the same; if the new BC is 0 or the byte
equals A they cost 16 and go on, else they cost 21 and PC is set back by 2. (A byte read is what the host returns;
what the host changes inside the bus operations is as it left it, memory as the writes leave it if it changes none.)
Rests on R229, R230, R231, R232, R554. -/
def Obligations.BlockSearches : Prop :=
  ∀ s : State,
    (Completes .cpi s 16 [s.readEv s.hl] fun u t => BlockComparePost (s.hl + 1) s u t ∧ Ends s t) ∧
    (Completes .cpd s 16 [s.readEv s.hl] fun u t => BlockComparePost (s.hl - 1) s u t ∧ Ends s t) ∧
    (Completes .cpir s (if s.bc.toNat = 1 ∨ s.a = s.hear s.hl then 16 else 21) [s.readEv s.hl] fun u t =>
      BlockComparePost (s.hl + 1) s u t ∧ (if s.bc.toNat = 1 ∨ s.a = s.hear s.hl then Ends s t else Repeats s t)) ∧
    Completes .cpdr s (if s.bc.toNat = 1 ∨ s.a = s.hear s.hl then 16 else 21) [s.readEv s.hl] fun u t =>
      BlockComparePost (s.hl - 1) s u t ∧ (if s.bc.toNat = 1 ∨ s.a = s.hear s.hl then Ends s t else Repeats s t)

/-- For every state, each of ADD, ADC, SUB, SBC, AND, XOR, OR, CP with a register (4 T-states), an immediate (7), a
half of IX or IY (4 after the prefix), the byte at HL (7) or the byte at XY+d (15 after the prefix) completes with
that one data read at most, leaves in A and F what the sum, difference or logic operation gives, every flag by
arithmetic on numbers (carry past bit 7, carry past bit 3, signed range, count of ones), and changes nothing else. (A
byte read is what the host returns; what the host changes inside the bus operations is as it left it, memory as the
writes leave it if it changes none.) Rests on R51, R240, R241, R246, R251, R256, R261, R266, R271, R276, R65, R66. -/
def Obligations.ArithmeticAndLogicOnA : Prop :=
  ∀ (s : State) (o : AluOp),
    (∀ r, Completes (aluR o r) s 4 [] fun u t => AluResult o s.a s.f (s.r8 r) t.a t.f ∧ KeepsExceptAF u t) ∧
    (∀ n, Completes (aluN o n) s 7 [] fun u t => AluResult o s.a s.f n t.a t.f ∧ KeepsExceptAF u t) ∧
    (∀ x k, Completes (aluXyHalf o x k) s 4 [] fun u t =>
      AluResult o s.a s.f (s.half x k) t.a t.f ∧ KeepsExceptAF u t) ∧
    (Completes (aluIndHl o) s 7 [s.readEv s.hl] fun u t =>
      AluResult o s.a s.f (s.hear s.hl) t.a t.f ∧ KeepsExceptAF u t) ∧
    ∀ x d, Completes (aluIndXy o x d) s 15 [s.readEv (s.ea x d)] fun u t =>
      AluResult o s.a s.f (s.hear (s.ea x d)) t.a t.f ∧ KeepsExceptAF u t

/-- For every state, INC and DEC of a register (4 T-states) or of a half of IX or IY (4 after the prefix) leave the
operand one up or down modulo 256 with the flags of rule R289, C kept, and change nothing else (no carry reaches the
other half); of (HL) (11) and (XY+d) (19 after the prefix) they read the byte, then write it back one up or down,
every other address and register unchanged. (A byte read is what the host returns; what the host changes inside the
bus operations is as it left it, memory as the writes leave it if it changes none.) Rests on R281, R282, R283, R284,
R285, R286, R287, R288, R289. -/
def Obligations.IncrementsAndDecrements : Prop :=
  ∀ s : State,
    (∀ r, Completes (.incR r) s 4 [] fun u t => IncResult s.f (s.r8 r) (t.r8 r) t.f ∧ KeepsExceptR8F r u t) ∧
    (∀ r, Completes (.decR r) s 4 [] fun u t => DecResult s.f (s.r8 r) (t.r8 r) t.f ∧ KeepsExceptR8F r u t) ∧
    (∀ x k, Completes (.incXyHalf x k) s 4 [] fun u t =>
      IncResult s.f (s.half x k) (t.half x k) t.f ∧ KeepsExceptHalf x k u { t with f := u.f }) ∧
    (∀ x k, Completes (.decXyHalf x k) s 4 [] fun u t =>
      DecResult s.f (s.half x k) (t.half x k) t.f ∧ KeepsExceptHalf x k u { t with f := u.f }) ∧
    (∃ w, Completes .incIndHl s 11 [s.readEv s.hl, .memWrite s.hl w] fun u t =>
      IncResult s.f (s.hear s.hl) w t.f ∧ StoredByte s.hl w s t ∧ KeepsExceptF u t) ∧
    (∃ w, Completes .decIndHl s 11 [s.readEv s.hl, .memWrite s.hl w] fun u t =>
      DecResult s.f (s.hear s.hl) w t.f ∧ StoredByte s.hl w s t ∧ KeepsExceptF u t) ∧
    (∀ x d, ∃ w, Completes (.incIndXy x d) s 19 [s.readEv (s.ea x d), .memWrite (s.ea x d) w] fun u t =>
      IncResult s.f (s.hear (s.ea x d)) w t.f ∧ StoredByte (s.ea x d) w s t ∧ KeepsExceptF u t) ∧
    ∀ x d, ∃ w, Completes (.decIndXy x d) s 19 [s.readEv (s.ea x d), .memWrite (s.ea x d) w] fun u t =>
      DecResult s.f (s.hear (s.ea x d)) w t.f ∧ StoredByte (s.ea x d) w s t ∧ KeepsExceptF u t

/-- For all bytes a and v of two decimal digits and every carry: after ADD or ADC, DAA leaves the two-digit decimal
sum modulo 100 with C set exactly if the sum exceeds 99; after SUB or SBC it leaves the decimal difference modulo 100
with C set exactly if it borrows. Rests on R65, R66, R300. -/
def Obligations.DecimalAdjustGivesDecimalArithmetic : Prop :=
  ∀ (a v : Byte) (c : Bool), isBcd a = true → isBcd v = true →
    (isBcd (daa (add8 a v c).1 (add8 a v c).2).1 = true ∧
      bcdNumber (daa (add8 a v c).1 (add8 a v c).2).1 = (bcdNumber a + bcdNumber v + carryIn c) % 100 ∧
      flagC (daa (add8 a v c).1 (add8 a v c).2).2 = decide (99 < bcdNumber a + bcdNumber v + carryIn c)) ∧
    isBcd (daa (sub8 a v c).1 (sub8 a v c).2).1 = true ∧
    bcdNumber (daa (sub8 a v c).1 (sub8 a v c).2).1 = (bcdNumber a + 200 - bcdNumber v - carryIn c) % 100 ∧
    flagC (daa (sub8 a v c).1 (sub8 a v c).2).2 = decide (bcdNumber a < bcdNumber v + carryIn c)

/-- For every state: DAA (4 T-states) corrects A by 6 and 96 as rule R300 decides from the original A, H, N and C; CPL
(4) inverts every bit of A, sets H and N and keeps S, Z, PV, C; NEG and its aliases (8) leave 0 minus A with the flags
of the subtraction; CCF (4) inverts C with H the old C; SCF (4) sets C with H = 0; Y and X come from A; nothing but A
and F changes. Rests on R300, R301, R302, R303, R304. -/
def Obligations.AccumulatorAndFlagOperations : Prop :=
  ∀ s : State,
    (Completes .daa s 4 [] fun u t => DaaResult s.a s.f t.a t.f ∧ KeepsExceptAF u t) ∧
    (Completes .cpl s 4 [] fun u t => (∀ k, k < 8 → t.a.getLsbD k = !s.a.getLsbD k) ∧ KeepsSZP s.f t.f ∧
      flagY t.f = t.a.getLsbD 5 ∧ flagH t.f = true ∧ flagX t.f = t.a.getLsbD 3 ∧ flagN t.f = true ∧
      flagC t.f = flagC s.f ∧ KeepsExceptAF u t) ∧
    (Completes .neg s 8 [] fun u t => DifferenceResult 0 s.a false t.a t.f ∧ KeepsExceptAF u t) ∧
    (∀ y, Completes (.negAlias y) s 8 [] fun u t => DifferenceResult 0 s.a false t.a t.f ∧ KeepsExceptAF u t) ∧
    (Completes .ccf s 4 [] fun u t => KeepsSZP s.f t.f ∧ flagY t.f = s.a.getLsbD 5 ∧ flagH t.f = flagC s.f ∧
      flagX t.f = s.a.getLsbD 3 ∧ flagN t.f = false ∧ flagC t.f = !flagC s.f ∧ KeepsExceptF u t) ∧
    Completes .scf s 4 [] fun u t => KeepsSZP s.f t.f ∧ flagY t.f = s.a.getLsbD 5 ∧ flagH t.f = false ∧
      flagX t.f = s.a.getLsbD 3 ∧ flagN t.f = false ∧ flagC t.f = true ∧ KeepsExceptF u t

/-- For every state, NOP (4 T-states) and every ED-NOP (8) change nothing; HALT (4) sets HALT and moves PC back by
one; DI (4) clears IFF1 and IFF2; EI (4) sets both and INTDEFER; IM 0, 1, 2 and their aliases (8) select the mode; a
DD or FD prefix (4) sets XYMODE to IX or IY and INTDEFER; none makes a bus operation or changes anything else, F
included. Rests on R305, R306, R307, R308, R309, R310, R311, R312, R313. -/
def Obligations.CpuControl : Prop :=
  ∀ s : State,
    (Completes .nop s 4 [] fun u t => KeepsAll u t) ∧
    (∀ o, Completes (.edNop o) s 8 [] fun u t => KeepsAll u t) ∧
    (Completes .halt s 4 [] fun u t => t = { u with halt := true, pc := s.pc - 1, cost := t.cost }) ∧
    (Completes .di s 4 [] fun u t => t = { u with iff1 := false, iff2 := false, cost := t.cost }) ∧
    (Completes .ei s 4 [] fun u t =>
      t = { u with iff1 := true, iff2 := true, intDefer := true, cost := t.cost }) ∧
    (Completes .im0 s 8 [] fun u t => t = { u with im := .im0, cost := t.cost }) ∧
    (∀ y, Completes (.im0Alias y) s 8 [] fun u t => t = { u with im := .im0, cost := t.cost }) ∧
    (Completes .im1 s 8 [] fun u t => t = { u with im := .im1, cost := t.cost }) ∧
    (Completes .im1Alias s 8 [] fun u t => t = { u with im := .im1, cost := t.cost }) ∧
    (Completes .im2 s 8 [] fun u t => t = { u with im := .im2, cost := t.cost }) ∧
    (Completes .im2Alias s 8 [] fun u t => t = { u with im := .im2, cost := t.cost }) ∧
    (Completes .prefixIx s 4 [] fun u t =>
      t = { u with xyMode := some .ix, intDefer := true, cost := t.cost }) ∧
    Completes .prefixIy s 4 [] fun u t =>
      t = { u with xyMode := some .iy, intDefer := true, cost := t.cost }

/-- For every state and pair: ADD (11 T-states) leaves the sum modulo 65536 with H from bit 11, C from bit 15, Y and X
from bits 13 and 11, N = 0 and S, Z, PV kept; ADC and SBC (15) write every flag, Z on all 16 bits and PV by signed
range; INC and DEC (6) change no flag; nothing but the destination and F changes and there is no bus operation. Rests
on R330, R331, R332, R333, R334, R335, R336, R337. -/
def Obligations.SixteenBitArithmetic : Prop :=
  ∀ s : State,
    (∀ ss, Completes (.addHlSs ss) s 11 [] fun u t =>
      Sum16Result s.f s.hl (s.rp ss) t.hl t.f ∧ KeepsExceptRp .hl u { t with f := u.f }) ∧
    (∀ x pp, Completes (.addXyPp x pp) s 11 [] fun u t =>
      Sum16Result s.f (s.xy x) (match pp with | .bc => s.bc | .de => s.de | .xy => s.xy x | .sp => s.sp) (t.xy x) t.f ∧
      KeepsExceptXy x u { t with f := u.f }) ∧
    (∀ ss, Completes (.adcHlSs ss) s 15 [] fun u t =>
      Adc16Result s.f s.hl (s.rp ss) t.hl t.f ∧ KeepsExceptRp .hl u { t with f := u.f }) ∧
    (∀ ss, Completes (.sbcHlSs ss) s 15 [] fun u t =>
      Sbc16Result s.f s.hl (s.rp ss) t.hl t.f ∧ KeepsExceptRp .hl u { t with f := u.f }) ∧
    (∀ ss, Completes (.incSs ss) s 6 [] fun u t =>
      (t.rp ss).toNat = ((s.rp ss).toNat + 1) % 65536 ∧ KeepsExceptRp ss u t) ∧
    (∀ x, Completes (.incXy x) s 6 [] fun u t => (t.xy x).toNat = ((s.xy x).toNat + 1) % 65536 ∧ KeepsExceptXy x u t) ∧
    (∀ ss, Completes (.decSs ss) s 6 [] fun u t =>
      (t.rp ss).toNat = ((s.rp ss).toNat + 65535) % 65536 ∧ KeepsExceptRp ss u t) ∧
    ∀ x, Completes (.decXy x) s 6 [] fun u t => (t.xy x).toNat = ((s.xy x).toNat + 65535) % 65536 ∧ KeepsExceptXy x u t

/-- For every state: the four accumulator rotates (4 T-states) move A by one bit, set C to the bit moved out, Y and X
from the new A, clear H and N and keep S, Z, PV; each of RLC, RRC, RL, RR, SLA, SRA, SLL, SRL of a register (8) moves
it by one bit as rule R350 says, with every flag from the result and the bit moved out; nothing else changes. Rests on
R350, R351, R352, R353, R354, R355, R359, R363, R367, R371, R375, R379. -/
def Obligations.RotatesOfRegisters : Prop :=
  ∀ s : State,
    (Completes .rlca s 4 [] fun u t => RotAccResult .rlc s.a s.f t.a t.f ∧ KeepsExceptAF u t) ∧
    (Completes .rla s 4 [] fun u t => RotAccResult .rl s.a s.f t.a t.f ∧ KeepsExceptAF u t) ∧
    (Completes .rrca s 4 [] fun u t => RotAccResult .rrc s.a s.f t.a t.f ∧ KeepsExceptAF u t) ∧
    (Completes .rra s 4 [] fun u t => RotAccResult .rr s.a s.f t.a t.f ∧ KeepsExceptAF u t) ∧
    ∀ o r, Completes (rotR o r) s 8 [] fun u t => RotResult o s.f (s.r8 r) (t.r8 r) t.f ∧ KeepsExceptR8F r u t

/-- For every state, each rotate or shift of (HL) (15 T-states) or (XY+d) (19 after the prefix) reads the byte, then
writes the moved byte w back to the same address, with every flag of rule R350; the form with a register also leaves w
in that register, whose old value plays no part; every other address and register is unchanged. (A byte read is what
the host returns; what the host changes inside the bus operations is as it left it, memory as the writes leave it if
it changes none.) Rests on R146, R350, R356, R357, R358, R362, R366, R370, R374, R378, R382, R386. -/
def Obligations.RotatesOfMemory : Prop :=
  ∀ (s : State) (o : RotOp),
    (∃ w, Completes (rotIndHl o) s 15 [s.readEv s.hl, .memWrite s.hl w] fun u t =>
      RotResult o s.f (s.hear s.hl) w t.f ∧ StoredByte s.hl w s t ∧ KeepsExceptF u t) ∧
    (∀ x d, ∃ w, Completes (rotIndXy o x d) s 19 [s.readEv (s.ea x d), .memWrite (s.ea x d) w] fun u t =>
      RotResult o s.f (s.hear (s.ea x d)) w t.f ∧ StoredByte (s.ea x d) w s t ∧ KeepsExceptF u t) ∧
    ∀ x d r, ∃ w, Completes (rotIndXyR o x d r) s 19 [s.readEv (s.ea x d), .memWrite (s.ea x d) w] fun u t =>
      RotResult o s.f (s.hear (s.ea x d)) w t.f ∧ StoredByte (s.ea x d) w s t ∧ t.r8 r = w ∧
      KeepsExceptR8 r u { t with f := u.f }

/-- For every state, with v the byte at HL: RLD (18 T-states) leaves v's low digit and A's low digit in memory and v's
high digit as A's low digit; RRD leaves A's low digit and v's high digit in memory and v's low digit as A's low digit;
A's high digit is kept, S, Z, Y, X and parity come from the new A, H = N = 0, C is kept, and nothing else changes. (A
byte read is what the host returns; what the host changes inside the bus operations is as it left it, memory as the
writes leave it if it changes none.) Rests on R387, R388. -/
def Obligations.DigitRotates : Prop :=
  ∀ s : State,
    (∃ w, w.toNat = (s.hear s.hl).toNat % 16 * 16 + s.a.toNat % 16 ∧
      Completes .rld s 18 [s.readEv s.hl, .memWrite s.hl w] fun u t =>
        t.a.toNat = s.a.toNat / 16 * 16 + (s.hear s.hl).toNat / 16 ∧ ReadFlags s.f t.a t.f ∧ StoredByte s.hl w s t ∧
        KeepsExceptAF u t) ∧
    ∃ w, w.toNat = s.a.toNat % 16 * 16 + (s.hear s.hl).toNat / 16 ∧
      Completes .rrd s 18 [s.readEv s.hl, .memWrite s.hl w] fun u t =>
        t.a.toNat = s.a.toNat / 16 * 16 + (s.hear s.hl).toNat % 16 ∧ ReadFlags s.f t.a t.f ∧ StoredByte s.hl w s t ∧
        KeepsExceptAF u t

/-- For every state and bit number: BIT b,r (8 T-states), BIT b,(HL) (12, one read) and BIT b,(XY+d) with its aliases
(16 after the prefix, one read) set Z and PV to the complement of the bit, S for bit 7 alone, H = 1, N = 0, keep C,
and take Y and X from the register, from the byte read, or from the high byte of the address; nothing else changes. (A
byte read is what the host returns; what the host changes inside the bus operations is as it left it, memory as the
writes leave it if it changes none.) Rests on R400, R401, R402. -/
def Obligations.BitTests : Prop :=
  ∀ (s : State) (b : Fin 8),
    (∀ r, Completes (.bitBR b r) s 8 [] fun u t => BitFlags s.f b (s.r8 r) (s.r8 r) t.f ∧ KeepsExceptF u t) ∧
    (Completes (.bitBIndHl b) s 12 [s.readEv s.hl] fun u t =>
      BitFlags s.f b (s.hear s.hl) (s.hear s.hl) t.f ∧ KeepsExceptF u t) ∧
    (∀ x d, Completes (.bitBIndXy x d b) s 16 [s.readEv (s.ea x d)] fun u t =>
      BitFlags s.f b (s.hear (s.ea x d)) (hiByte (s.ea x d)) t.f ∧ KeepsExceptF u t) ∧
    ∀ x d z, Completes (.bitBIndXyAlias x d b z) s 16 [s.readEv (s.ea x d)] fun u t =>
      BitFlags s.f b (s.hear (s.ea x d)) (hiByte (s.ea x d)) t.f ∧ KeepsExceptF u t

/-- For every state and bit number: SET and RES of a register (8 T-states) make that bit 1 or 0 and leave its other
bits; of (HL) (15) and (XY+d) (19 after the prefix) they read the byte, then write back w with that bit made 1 or 0,
whatever it was; the form with a register also leaves w there; every other bit, address, register and every flag is
unchanged. (A byte read is what the host returns; what the host changes inside the bus operations is as it left it,
memory as the writes leave it if it changes none.) Rests on R403, R404, R405, R406, R407, R408, R409, R410. -/
def Obligations.BitSetsAndResets : Prop :=
  ∀ (s : State) (b : Fin 8),
    (∀ r, Completes (.setBR b r) s 8 [] fun u t =>
      (∀ k, k < 8 → (t.r8 r).getLsbD k = (decide (k = b.val) || (s.r8 r).getLsbD k)) ∧ KeepsExceptR8 r u t) ∧
    (∀ r, Completes (.resBR b r) s 8 [] fun u t =>
      (∀ k, k < 8 → (t.r8 r).getLsbD k = (!decide (k = b.val) && (s.r8 r).getLsbD k)) ∧ KeepsExceptR8 r u t) ∧
    (∃ w : Byte, (∀ k, k < 8 → w.getLsbD k = (decide (k = b.val) || (s.hear s.hl).getLsbD k)) ∧
      Completes (.setBIndHl b) s 15 [s.readEv s.hl, .memWrite s.hl w] fun u t =>
        StoredByte s.hl w s t ∧ KeepsAll u t) ∧
    (∃ w : Byte, (∀ k, k < 8 → w.getLsbD k = (!decide (k = b.val) && (s.hear s.hl).getLsbD k)) ∧
      Completes (.resBIndHl b) s 15 [s.readEv s.hl, .memWrite s.hl w] fun u t =>
        StoredByte s.hl w s t ∧ KeepsAll u t) ∧
    (∀ x d, ∃ w : Byte, (∀ k, k < 8 → w.getLsbD k = (decide (k = b.val) || (s.hear (s.ea x d)).getLsbD k)) ∧
      (Completes (.setBIndXy x d b) s 19 [s.readEv (s.ea x d), .memWrite (s.ea x d) w] fun u t =>
        StoredByte (s.ea x d) w s t ∧ KeepsAll u t) ∧
      ∀ r, Completes (.setBIndXyR x d b r) s 19 [s.readEv (s.ea x d), .memWrite (s.ea x d) w] fun u t =>
        StoredByte (s.ea x d) w s t ∧ t.r8 r = w ∧ KeepsExceptR8 r u t) ∧
    ∀ x d, ∃ w : Byte, (∀ k, k < 8 → w.getLsbD k = (!decide (k = b.val) && (s.hear (s.ea x d)).getLsbD k)) ∧
      (Completes (.resBIndXy x d b) s 19 [s.readEv (s.ea x d), .memWrite (s.ea x d) w] fun u t =>
        StoredByte (s.ea x d) w s t ∧ KeepsAll u t) ∧
      ∀ r, Completes (.resBIndXyR x d b r) s 19 [s.readEv (s.ea x d), .memWrite (s.ea x d) w] fun u t =>
        StoredByte (s.ea x d) w s t ∧ t.r8 r = w ∧ KeepsExceptR8 r u t

/-- For every state and operands: JP nn and JP cc,nn (10 T-states either way), JR (12), JR NZ, Z, NC, C (12 taken, 7
not), JP (HL) and JP (XY) (4) leave in PC the target, PC plus the signed displacement modulo 65536, or PC as it was
where the condition fails; DJNZ counts B down modulo 256 and jumps (13) unless B is 0 (8); no flag, no memory and
nothing else changes. Rests on R422, R423, R424, R425, R426, R427, R428, R429, R430, R431. -/
def Obligations.Jumps : Prop :=
  ∀ s : State,
    (∀ nn, Completes (.jpNn nn) s 10 [] fun u t => t.pc = nn ∧ KeepsExceptPc u t) ∧
    (∀ cc nn, Completes (.jpCcNn cc nn) s 10 [] fun u t =>
      t.pc = (if condHolds s.f cc then nn else s.pc) ∧ KeepsExceptPc u t) ∧
    (∀ e, Completes (.jr e) s 12 [] fun u t => t.pc = BitVec.ofInt 16 (s.pc.toNat + e.toInt) ∧ KeepsExceptPc u t) ∧
    (∀ e, Completes (.jrNz e) s (if flagZ s.f then 7 else 12) [] fun u t =>
      t.pc = (if flagZ s.f then s.pc else BitVec.ofInt 16 (s.pc.toNat + e.toInt)) ∧ KeepsExceptPc u t) ∧
    (∀ e, Completes (.jrZ e) s (if flagZ s.f then 12 else 7) [] fun u t =>
      t.pc = (if flagZ s.f then BitVec.ofInt 16 (s.pc.toNat + e.toInt) else s.pc) ∧ KeepsExceptPc u t) ∧
    (∀ e, Completes (.jrNc e) s (if flagC s.f then 7 else 12) [] fun u t =>
      t.pc = (if flagC s.f then s.pc else BitVec.ofInt 16 (s.pc.toNat + e.toInt)) ∧ KeepsExceptPc u t) ∧
    (∀ e, Completes (.jrC e) s (if flagC s.f then 12 else 7) [] fun u t =>
      t.pc = (if flagC s.f then BitVec.ofInt 16 (s.pc.toNat + e.toInt) else s.pc) ∧ KeepsExceptPc u t) ∧
    (Completes .jpHl s 4 [] fun u t => t.pc = s.hl ∧ KeepsExceptPc u t) ∧
    (∀ x, Completes (.jpXy x) s 4 [] fun u t => t.pc = s.xy x ∧ KeepsExceptPc u t) ∧
    ∀ e, Completes (.djnz e) s (if s.b.toNat = 1 then 8 else 13) [] fun u t =>
      t.b.toNat = (s.b.toNat + 255) % 256 ∧
      t.pc = (if s.b.toNat = 1 then s.pc else BitVec.ofInt 16 (s.pc.toNat + e.toInt)) ∧
      t = { u with b := t.b, pc := t.pc, cost := t.cost }

/-- For every state and operands: CALL nn (17 T-states), CALL cc,nn where the condition holds (17) and RST p (11)
store PC at SP - 1 (high byte, first) and SP - 2, lower SP by 2 and leave the target in PC, 8 times t for RST; CALL
cc,nn where it fails (10) stores nothing and changes nothing; every other address, register and flag is unchanged. (A
byte read is what the host returns; what the host changes inside the bus operations is as it left it, memory as the
writes leave it if it changes none.) Rests on R108, R432, R433, R438. -/
def Obligations.CallsAndRestarts : Prop :=
  ∀ s : State,
    (∀ nn, Completes (.callNn nn) s 17 (s.pushEvs s.pc) fun u t => t.pc = nn ∧ Pushed s.pc s u { t with pc := s.pc }) ∧
    (∀ cc nn, condHolds s.f cc = true →
      Completes (.callCcNn cc nn) s 17 (s.pushEvs s.pc) fun u t => t.pc = nn ∧ Pushed s.pc s u { t with pc := s.pc }) ∧
    (∀ cc nn, condHolds s.f cc = false → Completes (.callCcNn cc nn) s 10 [] fun u t => KeepsAll u t) ∧
    ∀ k, Completes (.rst k) s 11 (s.pushEvs s.pc) fun u t =>
      t.pc.toNat = 8 * k.val ∧ Pushed s.pc s u { t with pc := s.pc }

/-- For every state: RET (10 T-states) and RET cc where the condition holds (11) read PC from SP, low byte first, and
raise SP by 2; RET cc where it fails (5) changes nothing; RETN, its aliases and RETI (14) also copy IFF2 into IFF1,
and RETI then notifies the device under service exactly if a chain is configured and there is one after the two reads
(the same as before them, if the host calls no setter inside them); nothing else changes, F included. That RETI looks
at the controller after its reads is read from the order of R436 (log entry 6, DEDUCED). (A byte read is what the host
returns; what the host changes inside the bus operations is as it left it, memory as the writes leave it if it changes
none.) Rests on R109, R434, R435, R436, R437, R501, R505. -/
def Obligations.Returns : Prop :=
  ∀ s : State,
    (Completes .ret s 10 (s.reads16 s.sp) fun u t => t = { u with pc := s.hear16 s.sp, sp := s.sp + 2, cost := t.cost }) ∧
    (∀ cc, condHolds s.f cc = true → Completes (.retCc cc) s 11 (s.reads16 s.sp) fun u t =>
      t = { u with pc := s.hear16 s.sp, sp := s.sp + 2, cost := t.cost }) ∧
    (∀ cc, condHolds s.f cc = false → Completes (.retCc cc) s 5 [] fun u t => KeepsAll u t) ∧
    (Completes .retn s 14 (s.reads16 s.sp) fun u t =>
      t = { u with pc := s.hear16 s.sp, sp := s.sp + 2, iff1 := s.iff2, cost := t.cost }) ∧
    (∀ y, Completes (.retnAlias y) s 14 (s.reads16 s.sp) fun u t =>
      t = { u with pc := s.hear16 s.sp, sp := s.sp + 2, iff1 := s.iff2, cost := t.cost }) ∧
    (∀ d, s.nDev ≠ 0 → (s.after (s.reads16 s.sp)).serviceDev = some d →
      Completes .reti s 14 (s.reads16 s.sp ++ [.deviceReti d]) fun u t =>
        t = { u with pc := s.hear16 s.sp, sp := s.sp + 2, iff1 := s.iff2, cost := t.cost }) ∧
    (s.nDev = 0 ∨ (s.after (s.reads16 s.sp)).serviceDev = none →
      Completes .reti s 14 (s.reads16 s.sp) fun u t =>
        t = { u with pc := s.hear16 s.sp, sp := s.sp + 2, iff1 := s.iff2, cost := t.cost }) ∧
    (s.HostKeepsLines → (s.after (s.reads16 s.sp)).serviceDev = s.serviceDev)

/-- For every state and operands: IN A,(n) (11 T-states) reads port A:n into A and keeps F; IN r,(C) (12) reads port
BC into r with S, Z, Y, X, parity from the byte, H = N = 0 and C kept; IN (C) (12) sets the same flags and no other
register; OUT (n),A (11) writes A to port A:n, OUT (C),r and OUT (C),0 (12) write r or 0 to port BC; nothing else
changes. The byte read is the host's answer or, where the state says none, a free value: the model's choice, log entry
4 (DESIGN CHOICE). (A byte read is what the host returns; what the host changes inside the bus operations is as it
left it, memory as the writes leave it if it changes none.) Rests on R110, R450, R451, R452, R457, R458, R459. -/
def Obligations.SingleInputsAndOutputs : Prop :=
  ∀ s : State,
    (∀ n, Completes (.inAN n) s 11 [.portRead (wordOf s.a n) (s.hearPort (wordOf s.a n))] fun u t =>
      t = { u with a := s.hearPort (wordOf s.a n), cost := t.cost }) ∧
    (∀ r, Completes (.inRC r) s 12 [.portRead s.bc (s.hearPort s.bc)] fun u t =>
      t.r8 r = s.hearPort s.bc ∧ ReadFlags s.f (s.hearPort s.bc) t.f ∧ KeepsExceptR8F r u t) ∧
    (Completes .inC s 12 [.portRead s.bc (s.hearPort s.bc)] fun u t =>
      ReadFlags s.f (s.hearPort s.bc) t.f ∧ KeepsExceptF u t) ∧
    (∀ n, Completes (.outNA n) s 11 [.portWrite (wordOf s.a n) s.a] fun u t => KeepsAll u t) ∧
    (∀ r, Completes (.outCR r) s 12 [.portWrite s.bc (s.r8 r)] fun u t => KeepsAll u t) ∧
    Completes .outC0 s 12 [.portWrite s.bc 0] fun u t => KeepsAll u t

/-- For every state: INI and IND (16 T-states) read port BC with the old B and store the byte at HL; OUTI and OUTD
(16) read the byte at HL and write it to port BC with the new B; HL moves up or down, B counts down, the flags are
those of rule R449 with k from C (input) or the new L (output); the repeating forms do the same and, unless the new B
is 0, cost 21 and set PC back by 2; nothing else changes. The byte a port read gives is the host's answer or, where
the state says none, a free value: the model's choice, log entry 4 (DESIGN CHOICE). (A byte read is what the host
returns; what the host changes inside the bus operations is as it left it, memory as the writes leave it if it changes
none.) Rests on R449, R453, R454, R455, R456, R460, R461, R462, R463, R554. -/
def Obligations.BlockInputsAndOutputs : Prop :=
  ∀ (s : State) (v : Byte), v = s.hearPort s.bc →
    (Completes .ini s 16 [.portRead s.bc v, .memWrite s.hl v] fun u t =>
      BlockInPost (s.hl + 1) v (v.toNat + (s.c.toNat + 1) % 256) s u t ∧ Ends s t) ∧
    (Completes .inir s (if s.b.toNat = 1 then 16 else 21) [.portRead s.bc v, .memWrite s.hl v] fun u t =>
      BlockInPost (s.hl + 1) v (v.toNat + (s.c.toNat + 1) % 256) s u t ∧
      (if s.b.toNat = 1 then Ends s t else Repeats s t)) ∧
    (Completes .ind s 16 [.portRead s.bc v, .memWrite s.hl v] fun u t =>
      BlockInPost (s.hl - 1) v (v.toNat + (s.c.toNat + 255) % 256) s u t ∧ Ends s t) ∧
    (Completes .indr s (if s.b.toNat = 1 then 16 else 21) [.portRead s.bc v, .memWrite s.hl v] fun u t =>
      BlockInPost (s.hl - 1) v (v.toNat + (s.c.toNat + 255) % 256) s u t ∧
      (if s.b.toNat = 1 then Ends s t else Repeats s t)) ∧
    (Completes .outi s 16 [s.readEv s.hl, .portWrite (wordOf (s.b - 1) s.c) (s.hear s.hl)] fun u t =>
      BlockOutPost (s.hl + 1) ((s.hear s.hl).toNat + (s.hl + 1).toNat % 256) s u t ∧ Ends s t) ∧
    (Completes .otir s (if s.b.toNat = 1 then 16 else 21)
      [s.readEv s.hl, .portWrite (wordOf (s.b - 1) s.c) (s.hear s.hl)] fun u t =>
        BlockOutPost (s.hl + 1) ((s.hear s.hl).toNat + (s.hl + 1).toNat % 256) s u t ∧
        (if s.b.toNat = 1 then Ends s t else Repeats s t)) ∧
    (Completes .outd s 16 [s.readEv s.hl, .portWrite (wordOf (s.b - 1) s.c) (s.hear s.hl)] fun u t =>
      BlockOutPost (s.hl - 1) ((s.hear s.hl).toNat + (s.hl - 1).toNat % 256) s u t ∧ Ends s t) ∧
    Completes .otdr s (if s.b.toNat = 1 then 16 else 21)
      [s.readEv s.hl, .portWrite (wordOf (s.b - 1) s.c) (s.hear s.hl)] fun u t =>
        BlockOutPost (s.hl - 1) ((s.hear s.hl).toNat + (s.hl - 1).toNat % 256) s u t ∧
        (if s.b.toNat = 1 then Ends s t else Repeats s t)

/-- For every state, each enumerant reads the register it names: the pairs and halves from their bytes, R from R.b7
and R.count, IM, IFF1, IFF2, HALT, the lines and the latch as numbers, DC(d) the state of device d (none outside the
chain), REQUEST_DEV and SERVICE_DEV the index or 0xFFFF for none. For every register and value, a write the port
accepts is read back truncated to the register's width (0 or 1 for the bits); every register that shares no byte with
the one written reads as before; memory, the lines, the latches, the controller, PREPC, the bus record and the cost
are unchanged. A read-only register, and IM with a value above 2, is refused. Rests on R31, R45, R575. -/
def Obligations.RegisterPortReadsBackWhatItWrote : Prop :=
  ∀ (reg : PortReg) (v : Word) (s : State),
    (getRegister .pc s = some s.pc ∧ getRegister .sp s = some s.sp ∧ getRegister .ix s = some s.ix ∧
      getRegister .iy s = some s.iy ∧ getRegister .af2 s = some s.af2 ∧ getRegister .bc2 s = some s.bc2 ∧
      getRegister .de2 s = some s.de2 ∧ getRegister .hl2 s = some s.hl2 ∧ getRegister .prepc s = some s.prepc) ∧
    (getRegister .af s = some (BitVec.ofNat 16 (s.a.toNat * 256 + s.f.toNat)) ∧
      getRegister .bc s = some (BitVec.ofNat 16 (s.b.toNat * 256 + s.c.toNat)) ∧
      getRegister .de s = some (BitVec.ofNat 16 (s.d.toNat * 256 + s.e.toNat)) ∧
      getRegister .hl s = some (BitVec.ofNat 16 (s.h.toNat * 256 + s.l.toNat))) ∧
    (getRegister .a s = some (BitVec.ofNat 16 s.a.toNat) ∧ getRegister .f s = some (BitVec.ofNat 16 s.f.toNat) ∧
      getRegister .b s = some (BitVec.ofNat 16 s.b.toNat) ∧ getRegister .c s = some (BitVec.ofNat 16 s.c.toNat) ∧
      getRegister .d s = some (BitVec.ofNat 16 s.d.toNat) ∧ getRegister .e s = some (BitVec.ofNat 16 s.e.toNat) ∧
      getRegister .h s = some (BitVec.ofNat 16 s.h.toNat) ∧ getRegister .l s = some (BitVec.ofNat 16 s.l.toNat) ∧
      getRegister .i s = some (BitVec.ofNat 16 s.i.toNat)) ∧
    (getRegister .ixh s = some (BitVec.ofNat 16 (s.ix.toNat / 256)) ∧
      getRegister .ixl s = some (BitVec.ofNat 16 (s.ix.toNat % 256)) ∧
      getRegister .iyh s = some (BitVec.ofNat 16 (s.iy.toNat / 256)) ∧
      getRegister .iyl s = some (BitVec.ofNat 16 (s.iy.toNat % 256)) ∧
      getRegister .r s = some (BitVec.ofNat 16 (s.rB7.toNat * 128 + s.rCount.toNat))) ∧
    (getRegister .im s = some (match s.im with | .im0 => 0 | .im1 => 1 | .im2 => 2) ∧
      getRegister .iff1 s = some (if s.iff1 then 1 else 0) ∧ getRegister .iff2 s = some (if s.iff2 then 1 else 0) ∧
      getRegister .halt s = some (if s.halt then 1 else 0) ∧ getRegister .nmiLine s = some (if s.nmiLine then 1 else 0) ∧
      getRegister .nmiPending s = some (if s.nmiPending then 1 else 0) ∧
      getRegister .irqLine s = some (if s.irqLine then 1 else 0)) ∧
    ((∀ d, s.nDev ≤ d → getRegister (.dc d) s = none) ∧
      (∀ d (h : d < s.intState.length), getRegister (.dc d) s = some (BitVec.ofNat 16 s.intState[d].toNat)) ∧
      (s.requestDev = none → getRegister .requestDev s = some 0xFFFF) ∧
      (∀ d, s.requestDev = some d → getRegister .requestDev s = some (BitVec.ofNat 16 d)) ∧
      (s.serviceDev = none → getRegister .serviceDev s = some 0xFFFF) ∧
      ∀ d, s.serviceDev = some d → getRegister .serviceDev s = some (BitVec.ofNat 16 d)) ∧
    (portReadOnly reg = true → setRegister reg v s = none) ∧
    (3 ≤ v.toNat → setRegister .im v s = none) ∧
    (portReadOnly reg = false → (reg = .im → v.toNat < 3) →
      ∃ t, setRegister reg v s = some t ∧ getRegister reg t = some (portValue reg v) ∧
        (∀ other, (∀ x, x ∈ other.parts → x ∉ reg.parts) → getRegister other t = getRegister other s) ∧
        t.toShared = s.toShared ∧ t.prepc = s.prepc ∧ t.intDefer = s.intDefer ∧ t.xyMode = s.xyMode ∧ t.cost = s.cost)

/-- For every state s that meets the invariant and every core u with the same number of devices: importing s's
exported context into u succeeds and leaves u with every register, flag, line, latch and controller item of s, its own
memory, INTDEFER, XYMODE and bus kept, so that exporting again gives the same context; with another number of devices
it is refused. Rests on R576. -/
def Obligations.ContextRoundTrip : Prop :=
  ∀ s u : State, s.Inv →
    (u.nDev = s.nDev →
      importContext s.nDev (exportContext s) u =
        some
          { s with
            mem := u.mem
            intDefer := u.intDefer
            xyMode := u.xyMode
            host := u.host
            calls := u.calls
            bus := u.bus
            cost := u.cost }) ∧
    (u.nDev ≠ s.nDev → importContext s.nDev (exportContext s) u = none)

/-- For every state and budget. With the latches clear, a budget of 0 or less performs no step and consumes 0.
Whenever execute answers, the answered state is the state after n steps, the T-states consumed are what these cost and
at least the budget, no latch is set, and after fewer steps the budget was not yet used (so the overrun is less than
the cost of the last step) or a latch was set; a positive budget performs a step. If n steps use the budget and leave
no latch set, execute answers with fuel n + 1, and more fuel does not change an answer. If no fuel is enough, then
every state from the step on at which the budget is used has a latch set; and from a state that meets the invariant
only EI and the prefixes leave a latch set, which is the case of R559. (The fuel, and the bound of 4 T-states a step
by which the steps are counted, are the model's choices, log entries 15 and 14.) Rests on R550, R551, R559, R570. -/
def Obligations.ExecuteUsesItsBudget : Prop :=
  ∀ (budget : Int) (s : State),
    (budget ≤ 0 → ¬s.Latched → ∀ fuel, execute (fuel + 1) budget s = some (0, s)) ∧
    (∀ fuel c t, execute fuel budget s = some (c, t) →
      ∃ n k : Nat, n < fuel ∧ runFor n s = some (k, t) ∧ c = (k : Int) ∧ budget ≤ c ∧ ¬t.Latched ∧ (0 < budget → 0 < n) ∧
        ∀ m, m < n → ∃ km tm, runFor m s = some (km, tm) ∧ ((km : Int) < budget ∨ tm.Latched)) ∧
    (∀ (n k : Nat) (t : State), runFor n s = some (k, t) → budget ≤ (k : Int) → ¬t.Latched → ∃ c u, execute (n + 1) budget s = some (c, u)) ∧
    (∀ fuel more c t, execute fuel budget s = some (c, t) → execute (fuel + more) budget s = some (c, t)) ∧
    ((∀ fuel, execute fuel budget s = none) →
      ∀ n : Nat, budget ≤ 4 * (n : Int) → ∃ k t, runFor n s = some (k, t) ∧ t.Latched) ∧
    (s.Inv → ∀ t, step s = .next t → t.Latched → Latches s.beginStep.nextInstr)
end

