-- ==== Sys2Proof/Laws/Flags.lean ====
section
/-! SUPPORT. The two large flag tables agree with the direct computation (spec/10_state.md R65, R66). -/

namespace Sys2Proof.Machine

theorem add8_fst (a v : Byte) (c : Bool) : (add8 a v c).1 = a + v + when 1 c := by
  apply BitVec.eq_of_toNat_eq
  cases c <;> simp [add8, when, BitVec.toNat_add]

theorem sub8_fst (a v : Byte) (c : Bool) : (sub8 a v c).1 = a - v - when 1 c := by
  have ha := a.isLt
  have hv := v.isLt
  apply BitVec.eq_of_toNat_eq
  cases c <;> simp [sub8, when, BitVec.toNat_sub, BitVec.toNat_ofInt] <;> omega

/-- The entry at the index a sum gives is the F of that sum. -/
theorem szhvcAdd_eq (a v : Byte) (c : Bool) : szhvcAdd c a (add8 a v c).1 = (add8 a v c).2 := by
  have h : (add8 a v c).1 - a - when 1 c = v := by
    rw [add8_fst]
    generalize when 1 c = k
    bv_omega
  rw [szhvcAdd, h]

/-- The entry at the index a difference gives is the F of that difference. -/
theorem szhvcSub_eq (a v : Byte) (c : Bool) : szhvcSub c a (sub8 a v c).1 = (sub8 a v c).2 := by
  have h : a - (sub8 a v c).1 - when 1 c = v := by
    rw [sub8_fst]
    generalize when 1 c = k
    bv_omega
  rw [szhvcSub, h]

end Sys2Proof.Machine
end

