-- ==== Sys2Proof/Laws/Memory.lean ====
section
/-! SUPPORT. Memory: a read after a write, and the canonical form that every memory operation keeps. -/

namespace Sys2Proof.Machine

/-! ### Reading after erasing, inserting and writing -/

theorem Memory.read_erase (m : Memory) (a b : Nat) :
    (m.erase a).read b = if a = b then Config.unlistedByte else m.read b := by
  induction m with
  | nil => simp [Memory.erase, Memory.read]
  | cons cell m ih =>
    obtain ⟨k, v⟩ := cell
    simp only [Memory.erase] at ih
    by_cases hk : k = a
    · subst hk
      simp only [Memory.erase, List.filter_cons, bne_self_eq_false, Bool.false_eq_true, if_false, ih, Memory.read]
      split <;> rfl
    · simp only [Memory.erase, List.filter_cons, bne_iff_ne, ne_eq, hk, not_false_iff, if_true, Memory.read, ih]
      by_cases hb : k = b
      · have : a ≠ b := fun h => hk (by omega)
        simp [hb, this]
      · simp [hb]

theorem Memory.read_insert {m : Memory} {a : Nat} (v : Byte) (h : ∀ w, (a, w) ∉ m) (b : Nat) :
    (Memory.insert a v m).read b = if a = b then v else m.read b := by
  induction m with
  | nil => simp [Memory.insert, Memory.read]
  | cons cell m ih =>
    obtain ⟨k, w⟩ := cell
    have hk : k ≠ a := fun e => h w (by simp [e])
    have ih := ih fun u hu => h u (by simp [hu])
    simp only [Memory.insert]
    split
    · simp [Memory.read]
    · simp only [Memory.read, ih]
      by_cases hb : k = b
      · have : a ≠ b := fun e => hk (by omega)
        simp [hb, this]
      · simp [hb]

theorem Memory.not_mem_erase (m : Memory) (a : Nat) (w : Byte) : (a, w) ∉ m.erase a := by
  simp [Memory.erase]

/-- A byte just written reads back, and every other byte reads as before. -/
theorem Memory.read_write (m : Memory) (a : Nat) (v : Byte) (b : Nat) :
    (m.write a v).read b = if a = b then v else m.read b := by
  unfold Memory.write
  split
  · rename_i h
    rw [Memory.read_erase, h]
  · rw [Memory.read_insert v (m.not_mem_erase a), Memory.read_erase]
    split <;> rfl

/-! ### The canonical form -/

theorem Memory.wfAbove_mono {lo lo' : Nat} (h : lo ≤ lo') {m : Memory} (hm : m.wfAbove lo' = true) :
    m.wfAbove lo = true := by
  cases m with
  | nil => rfl
  | cons cell m =>
    simp only [Memory.wfAbove, Bool.and_eq_true, decide_eq_true_eq] at hm ⊢
    exact ⟨⟨⟨by omega, hm.1.1.2⟩, hm.1.2⟩, hm.2⟩

theorem Memory.wfAbove_erase {lo : Nat} {m : Memory} (a : Nat) (hm : m.wfAbove lo = true) :
    (m.erase a).wfAbove lo = true := by
  induction m generalizing lo with
  | nil => rfl
  | cons cell m ih =>
    obtain ⟨k, v⟩ := cell
    simp only [Memory.wfAbove, Bool.and_eq_true, decide_eq_true_eq] at hm
    have ih := ih hm.2
    simp only [Memory.erase] at ih
    simp only [Memory.erase, List.filter_cons]
    split
    · simp only [Memory.wfAbove, Bool.and_eq_true, decide_eq_true_eq]
      exact ⟨hm.1, ih⟩
    · exact Memory.wfAbove_mono (by omega) ih

theorem Memory.wfAbove_insert {lo a : Nat} {v : Byte} {m : Memory} (hlo : lo ≤ a) (ha : a < 65536)
    (hv : v ≠ Config.unlistedByte) (h : ∀ w, (a, w) ∉ m) (hm : m.wfAbove lo = true) :
    (Memory.insert a v m).wfAbove lo = true := by
  induction m generalizing lo with
  | nil => simp [Memory.insert, Memory.wfAbove, hlo, ha, hv]
  | cons cell m ih =>
    obtain ⟨k, w⟩ := cell
    have hk : k ≠ a := fun e => h w (by simp [e])
    simp only [Memory.wfAbove, Bool.and_eq_true, decide_eq_true_eq] at hm
    simp only [Memory.insert]
    split
    · simp only [Memory.wfAbove, Bool.and_eq_true, decide_eq_true_eq, bne_iff_ne, ne_eq]
      exact ⟨⟨⟨hlo, ha⟩, hv⟩, ⟨⟨by omega, hm.1.1.2⟩, by simpa using hm.1.2⟩, hm.2⟩
    · simp only [Memory.wfAbove, Bool.and_eq_true, decide_eq_true_eq]
      exact ⟨hm.1, ih (by omega) (fun u hu => h u (by simp [hu])) hm.2⟩

/-- A write inside the address space keeps the canonical form. -/
theorem Memory.wf_write {m : Memory} {a : Nat} (v : Byte) (ha : a < 65536) (hm : m.wf = true) :
    (m.write a v).wf = true := by
  unfold Memory.write
  split
  · exact Memory.wfAbove_erase a hm
  · rename_i hv
    exact Memory.wfAbove_insert (Nat.zero_le a) ha hv (m.not_mem_erase a) (Memory.wfAbove_erase a hm)

theorem Memory.read_of_wfAbove {lo a : Nat} {m : Memory} (hm : m.wfAbove lo = true) (ha : a < lo) :
    m.read a = Config.unlistedByte := by
  induction m generalizing lo with
  | nil => rfl
  | cons cell m ih =>
    obtain ⟨k, v⟩ := cell
    simp only [Memory.wfAbove, Bool.and_eq_true, decide_eq_true_eq] at hm
    have : k ≠ a := by omega
    simp only [Memory.read, this, if_false]
    exact ih hm.2 (by omega)

theorem Memory.eq_of_wfAbove {lo : Nat} {m m' : Memory} (hm : m.wfAbove lo = true) (hm' : m'.wfAbove lo = true)
    (h : ∀ a, m.read a = m'.read a) : m = m' := by
  induction m generalizing lo m' with
  | nil =>
    cases m' with
    | nil => rfl
    | cons cell m' =>
      obtain ⟨k, v⟩ := cell
      simp only [Memory.wfAbove, Bool.and_eq_true, bne_iff_ne, ne_eq] at hm'
      exact absurd (by simpa [Memory.read] using (h k).symm) hm'.1.2
  | cons cell m ih =>
    obtain ⟨k, v⟩ := cell
    simp only [Memory.wfAbove, Bool.and_eq_true, decide_eq_true_eq, bne_iff_ne, ne_eq] at hm
    cases m' with
    | nil => exact absurd (by simpa [Memory.read] using h k) hm.1.2
    | cons cell' m' =>
      obtain ⟨k', v'⟩ := cell'
      simp only [Memory.wfAbove, Bool.and_eq_true, decide_eq_true_eq, bne_iff_ne, ne_eq] at hm'
      have hk : k = k' := by
        rcases Nat.lt_trichotomy k k' with hlt | heq | hgt
        · have := h k
          have hne : k' ≠ k := by omega
          simp only [Memory.read, if_true, hne, if_false] at this
          exact absurd (this.trans (Memory.read_of_wfAbove hm'.2 (by omega))) hm.1.2
        · exact heq
        · have := h k'
          have hne : k ≠ k' := by omega
          simp only [Memory.read, if_true, hne, if_false] at this
          exact absurd (this.symm.trans (Memory.read_of_wfAbove hm.2 (by omega))) hm'.1.2
      subst hk
      have hv : v = v' := by simpa [Memory.read] using h k
      subst hv
      have hrest : m = m' := by
        refine ih hm.2 hm'.2 fun a => ?_
        by_cases ha : k = a
        · subst ha
          rw [Memory.read_of_wfAbove hm.2 (by omega), Memory.read_of_wfAbove hm'.2 (by omega)]
        · simpa [Memory.read, ha] using h a
      rw [hrest]

/-- Two memories in canonical form that read alike are the same list. -/
theorem Memory.eq_of_read_eq {m m' : Memory} (hm : m.wf = true) (hm' : m'.wf = true) (h : ∀ a, m.read a = m'.read a) :
    m = m' :=
  Memory.eq_of_wfAbove hm hm' h

/-! ### Through the shared part of the state -/

/-- A read depends on the memory alone. -/
theorem Shared.peek_congr {g h : Shared} (e : g.mem = h.mem) (a : Word) : g.peek a = h.peek a := by
  unfold Shared.peek
  rw [e]

theorem Shared.peek_poke (h : Shared) (a : Word) (v : Byte) (b : Word) :
    (h.poke a v).peek b = if a = b then v else h.peek b := by
  simp only [Shared.peek, Shared.poke, Memory.read_write, BitVec.toNat_inj]

@[simp] theorem Shared.peek_poke_same (h : Shared) (a : Word) (v : Byte) : (h.poke a v).peek a = v := by
  simp [Shared.peek_poke]

theorem Shared.peek_poke_other (h : Shared) {a b : Word} (v : Byte) (n : b ≠ a) : (h.poke a v).peek b = h.peek b := by
  simp [Shared.peek_poke, n.symm]

theorem Shared.wf_poke {h : Shared} (a : Word) (v : Byte) (w : h.mem.wf = true) : (h.poke a v).mem.wf = true :=
  Memory.wf_write v a.isLt w

theorem Shared.wf_pokes {h : Shared} (a : Word) (bs : List Byte) (w : h.mem.wf = true) :
    (h.pokes a bs).mem.wf = true := by
  induction bs generalizing h a with
  | nil => exact w
  | cons v bs ih => exact ih (a + 1) (Shared.wf_poke a v w)

/-- Memory after reset lists nothing, so it has the canonical form. -/
theorem reset_mem_wf : State.reset.mem.wf = true := rfl

/-! ### The lines and the controller touch no memory -/

@[simp] theorem Shared.setNmiLine_mem (level : Bool) (h : Shared) : (h.setNmiLine level).mem = h.mem := by
  unfold Shared.setNmiLine
  split <;> rfl

@[simp] theorem Shared.reportState_mem (d : Nat) (v : Byte) (h : Shared) : (h.reportState d v).mem = h.mem := by
  unfold Shared.reportState
  split
  · rfl
  · split <;> rfl

theorem Shared.setIrqLine_mem {line : Nat} {level : Bool} {report : Option (Nat × Byte)} {g h : Shared}
    (e : h.setIrqLine line level report = some g) : g.mem = h.mem := by
  unfold Shared.setIrqLine at e
  split at e
  · cases e
  · split at e
    · cases e
      rfl
    · split at e
      · cases e
        exact Shared.reportState_mem _ _ _
      · cases e
        rfl

/-! ### Every operation keeps the canonical form -/

theorem Shared.wf_act {h : Shared} (x : HostAct) (w : h.mem.wf = true) : (h.act x).mem.wf = true := by
  cases x with
  | setMemory a v => exact Shared.wf_poke a v w
  | setNmiLine level => exact (congrArg Memory.wf (Shared.setNmiLine_mem level h)).trans w
  | setIrqLine line level report =>
    simp only [Shared.act]
    cases e : h.setIrqLine line level report with
    | none => exact w
    | some g => exact (congrArg Memory.wf (Shared.setIrqLine_mem e)).trans w

theorem Shared.wf_acts {h : Shared} (xs : List HostAct) (w : h.mem.wf = true) :
    (xs.foldl Shared.act h).mem.wf = true := by
  induction xs generalizing h with
  | nil => exact w
  | cons x xs ih => exact ih (Shared.wf_act x w)

/-- An operation on the host, with whatever the host does inside it, keeps the canonical form. -/
theorem Shared.wf_perform {h : Shared} (ev : BusEvent) (w : h.mem.wf = true) : (h.perform ev).mem.wf = true := by
  refine Shared.wf_acts _ ?_
  cases ev with
  | memWrite a v => exact Memory.wf_write v a.isLt w
  | _ => exact w

theorem wf_memWrite {s : State} (a : Word) (v : Byte) (w : s.mem.wf = true) : (memWrite a v s).mem.wf = true :=
  Shared.wf_perform _ w

theorem wf_memRead {s : State} (a : Word) (w : s.mem.wf = true) : (memRead a s).2.mem.wf = true := Shared.wf_perform _ w

theorem wf_memRead16 {s : State} (a : Word) (w : s.mem.wf = true) : (memRead16 a s).2.mem.wf = true :=
  Shared.wf_perform _ (Shared.wf_perform _ w)

theorem wf_memWrite16 {s : State} (a v : Word) (w : s.mem.wf = true) : (memWrite16 a v s).mem.wf = true :=
  wf_memWrite _ _ (wf_memWrite _ _ w)

theorem wf_push16 {s : State} (v : Word) (w : s.mem.wf = true) : (push16 v s).mem.wf = true :=
  wf_memWrite (s.sp - 2) _ (wf_memWrite (s.sp - 1) _ w)

theorem wf_pop16 {s : State} (w : s.mem.wf = true) : (pop16 s).2.mem.wf = true := wf_memRead16 s.sp w

end Sys2Proof.Machine
end

