-- ==== Sys2Proof/Laws/State.lean ====
section
/-! SUPPORT. What each update of a state leaves in each field: one lemma per field per update, so that a proof never
unfolds a record update. What the host can change (`Shared`) is one field here: an update that leaves it leaves memory,
the lines and the controller. -/

namespace Sys2Proof.Machine

/-! ### `State.perform` -/

@[simp] theorem State.perform_a (s : State) (ev : BusEvent) : (s.perform ev).a = s.a := rfl
@[simp] theorem State.perform_f (s : State) (ev : BusEvent) : (s.perform ev).f = s.f := rfl
@[simp] theorem State.perform_b (s : State) (ev : BusEvent) : (s.perform ev).b = s.b := rfl
@[simp] theorem State.perform_c (s : State) (ev : BusEvent) : (s.perform ev).c = s.c := rfl
@[simp] theorem State.perform_d (s : State) (ev : BusEvent) : (s.perform ev).d = s.d := rfl
@[simp] theorem State.perform_e (s : State) (ev : BusEvent) : (s.perform ev).e = s.e := rfl
@[simp] theorem State.perform_h (s : State) (ev : BusEvent) : (s.perform ev).h = s.h := rfl
@[simp] theorem State.perform_l (s : State) (ev : BusEvent) : (s.perform ev).l = s.l := rfl
@[simp] theorem State.perform_af2 (s : State) (ev : BusEvent) : (s.perform ev).af2 = s.af2 := rfl
@[simp] theorem State.perform_bc2 (s : State) (ev : BusEvent) : (s.perform ev).bc2 = s.bc2 := rfl
@[simp] theorem State.perform_de2 (s : State) (ev : BusEvent) : (s.perform ev).de2 = s.de2 := rfl
@[simp] theorem State.perform_hl2 (s : State) (ev : BusEvent) : (s.perform ev).hl2 = s.hl2 := rfl
@[simp] theorem State.perform_ix (s : State) (ev : BusEvent) : (s.perform ev).ix = s.ix := rfl
@[simp] theorem State.perform_iy (s : State) (ev : BusEvent) : (s.perform ev).iy = s.iy := rfl
@[simp] theorem State.perform_sp (s : State) (ev : BusEvent) : (s.perform ev).sp = s.sp := rfl
@[simp] theorem State.perform_pc (s : State) (ev : BusEvent) : (s.perform ev).pc = s.pc := rfl
@[simp] theorem State.perform_prepc (s : State) (ev : BusEvent) : (s.perform ev).prepc = s.prepc := rfl
@[simp] theorem State.perform_i (s : State) (ev : BusEvent) : (s.perform ev).i = s.i := rfl
@[simp] theorem State.perform_rCount (s : State) (ev : BusEvent) : (s.perform ev).rCount = s.rCount := rfl
@[simp] theorem State.perform_rB7 (s : State) (ev : BusEvent) : (s.perform ev).rB7 = s.rB7 := rfl
@[simp] theorem State.perform_iff1 (s : State) (ev : BusEvent) : (s.perform ev).iff1 = s.iff1 := rfl
@[simp] theorem State.perform_iff2 (s : State) (ev : BusEvent) : (s.perform ev).iff2 = s.iff2 := rfl
@[simp] theorem State.perform_im (s : State) (ev : BusEvent) : (s.perform ev).im = s.im := rfl
@[simp] theorem State.perform_halt (s : State) (ev : BusEvent) : (s.perform ev).halt = s.halt := rfl
@[simp] theorem State.perform_intDefer (s : State) (ev : BusEvent) : (s.perform ev).intDefer = s.intDefer := rfl
@[simp] theorem State.perform_xyMode (s : State) (ev : BusEvent) : (s.perform ev).xyMode = s.xyMode := rfl
@[simp] theorem State.perform_cost (s : State) (ev : BusEvent) : (s.perform ev).cost = s.cost := rfl
@[simp] theorem State.perform_toShared (s : State) (ev : BusEvent) : (s.perform ev).toShared = s.toShared.perform ev := rfl

/-! ### `State.charge` -/

@[simp] theorem State.charge_a (s : State) (n : Nat) : (s.charge n).a = s.a := rfl
@[simp] theorem State.charge_f (s : State) (n : Nat) : (s.charge n).f = s.f := rfl
@[simp] theorem State.charge_b (s : State) (n : Nat) : (s.charge n).b = s.b := rfl
@[simp] theorem State.charge_c (s : State) (n : Nat) : (s.charge n).c = s.c := rfl
@[simp] theorem State.charge_d (s : State) (n : Nat) : (s.charge n).d = s.d := rfl
@[simp] theorem State.charge_e (s : State) (n : Nat) : (s.charge n).e = s.e := rfl
@[simp] theorem State.charge_h (s : State) (n : Nat) : (s.charge n).h = s.h := rfl
@[simp] theorem State.charge_l (s : State) (n : Nat) : (s.charge n).l = s.l := rfl
@[simp] theorem State.charge_af2 (s : State) (n : Nat) : (s.charge n).af2 = s.af2 := rfl
@[simp] theorem State.charge_bc2 (s : State) (n : Nat) : (s.charge n).bc2 = s.bc2 := rfl
@[simp] theorem State.charge_de2 (s : State) (n : Nat) : (s.charge n).de2 = s.de2 := rfl
@[simp] theorem State.charge_hl2 (s : State) (n : Nat) : (s.charge n).hl2 = s.hl2 := rfl
@[simp] theorem State.charge_ix (s : State) (n : Nat) : (s.charge n).ix = s.ix := rfl
@[simp] theorem State.charge_iy (s : State) (n : Nat) : (s.charge n).iy = s.iy := rfl
@[simp] theorem State.charge_sp (s : State) (n : Nat) : (s.charge n).sp = s.sp := rfl
@[simp] theorem State.charge_pc (s : State) (n : Nat) : (s.charge n).pc = s.pc := rfl
@[simp] theorem State.charge_prepc (s : State) (n : Nat) : (s.charge n).prepc = s.prepc := rfl
@[simp] theorem State.charge_i (s : State) (n : Nat) : (s.charge n).i = s.i := rfl
@[simp] theorem State.charge_rCount (s : State) (n : Nat) : (s.charge n).rCount = s.rCount := rfl
@[simp] theorem State.charge_rB7 (s : State) (n : Nat) : (s.charge n).rB7 = s.rB7 := rfl
@[simp] theorem State.charge_iff1 (s : State) (n : Nat) : (s.charge n).iff1 = s.iff1 := rfl
@[simp] theorem State.charge_iff2 (s : State) (n : Nat) : (s.charge n).iff2 = s.iff2 := rfl
@[simp] theorem State.charge_im (s : State) (n : Nat) : (s.charge n).im = s.im := rfl
@[simp] theorem State.charge_halt (s : State) (n : Nat) : (s.charge n).halt = s.halt := rfl
@[simp] theorem State.charge_intDefer (s : State) (n : Nat) : (s.charge n).intDefer = s.intDefer := rfl
@[simp] theorem State.charge_xyMode (s : State) (n : Nat) : (s.charge n).xyMode = s.xyMode := rfl
@[simp] theorem State.charge_cost (s : State) (n : Nat) : (s.charge n).cost = n := rfl
@[simp] theorem State.charge_toShared (s : State) (n : Nat) : (s.charge n).toShared = s.toShared := rfl

/-! ### `State.setR` -/

@[simp] theorem State.setR_a (s : State) (v : Byte) : (s.setR v).a = s.a := rfl
@[simp] theorem State.setR_f (s : State) (v : Byte) : (s.setR v).f = s.f := rfl
@[simp] theorem State.setR_b (s : State) (v : Byte) : (s.setR v).b = s.b := rfl
@[simp] theorem State.setR_c (s : State) (v : Byte) : (s.setR v).c = s.c := rfl
@[simp] theorem State.setR_d (s : State) (v : Byte) : (s.setR v).d = s.d := rfl
@[simp] theorem State.setR_e (s : State) (v : Byte) : (s.setR v).e = s.e := rfl
@[simp] theorem State.setR_h (s : State) (v : Byte) : (s.setR v).h = s.h := rfl
@[simp] theorem State.setR_l (s : State) (v : Byte) : (s.setR v).l = s.l := rfl
@[simp] theorem State.setR_af2 (s : State) (v : Byte) : (s.setR v).af2 = s.af2 := rfl
@[simp] theorem State.setR_bc2 (s : State) (v : Byte) : (s.setR v).bc2 = s.bc2 := rfl
@[simp] theorem State.setR_de2 (s : State) (v : Byte) : (s.setR v).de2 = s.de2 := rfl
@[simp] theorem State.setR_hl2 (s : State) (v : Byte) : (s.setR v).hl2 = s.hl2 := rfl
@[simp] theorem State.setR_ix (s : State) (v : Byte) : (s.setR v).ix = s.ix := rfl
@[simp] theorem State.setR_iy (s : State) (v : Byte) : (s.setR v).iy = s.iy := rfl
@[simp] theorem State.setR_sp (s : State) (v : Byte) : (s.setR v).sp = s.sp := rfl
@[simp] theorem State.setR_pc (s : State) (v : Byte) : (s.setR v).pc = s.pc := rfl
@[simp] theorem State.setR_prepc (s : State) (v : Byte) : (s.setR v).prepc = s.prepc := rfl
@[simp] theorem State.setR_i (s : State) (v : Byte) : (s.setR v).i = s.i := rfl
@[simp] theorem State.setR_rCount (s : State) (v : Byte) : (s.setR v).rCount = v.extractLsb' 0 7 := rfl
@[simp] theorem State.setR_rB7 (s : State) (v : Byte) : (s.setR v).rB7 = v.extractLsb' 7 1 := rfl
@[simp] theorem State.setR_iff1 (s : State) (v : Byte) : (s.setR v).iff1 = s.iff1 := rfl
@[simp] theorem State.setR_iff2 (s : State) (v : Byte) : (s.setR v).iff2 = s.iff2 := rfl
@[simp] theorem State.setR_im (s : State) (v : Byte) : (s.setR v).im = s.im := rfl
@[simp] theorem State.setR_halt (s : State) (v : Byte) : (s.setR v).halt = s.halt := rfl
@[simp] theorem State.setR_intDefer (s : State) (v : Byte) : (s.setR v).intDefer = s.intDefer := rfl
@[simp] theorem State.setR_xyMode (s : State) (v : Byte) : (s.setR v).xyMode = s.xyMode := rfl
@[simp] theorem State.setR_cost (s : State) (v : Byte) : (s.setR v).cost = s.cost := rfl
@[simp] theorem State.setR_toShared (s : State) (v : Byte) : (s.setR v).toShared = s.toShared := rfl

/-! ### `State.beginStep` -/

@[simp] theorem State.beginStep_a (s : State) : s.beginStep.a = s.a := rfl
@[simp] theorem State.beginStep_f (s : State) : s.beginStep.f = s.f := rfl
@[simp] theorem State.beginStep_b (s : State) : s.beginStep.b = s.b := rfl
@[simp] theorem State.beginStep_c (s : State) : s.beginStep.c = s.c := rfl
@[simp] theorem State.beginStep_d (s : State) : s.beginStep.d = s.d := rfl
@[simp] theorem State.beginStep_e (s : State) : s.beginStep.e = s.e := rfl
@[simp] theorem State.beginStep_h (s : State) : s.beginStep.h = s.h := rfl
@[simp] theorem State.beginStep_l (s : State) : s.beginStep.l = s.l := rfl
@[simp] theorem State.beginStep_af2 (s : State) : s.beginStep.af2 = s.af2 := rfl
@[simp] theorem State.beginStep_bc2 (s : State) : s.beginStep.bc2 = s.bc2 := rfl
@[simp] theorem State.beginStep_de2 (s : State) : s.beginStep.de2 = s.de2 := rfl
@[simp] theorem State.beginStep_hl2 (s : State) : s.beginStep.hl2 = s.hl2 := rfl
@[simp] theorem State.beginStep_ix (s : State) : s.beginStep.ix = s.ix := rfl
@[simp] theorem State.beginStep_iy (s : State) : s.beginStep.iy = s.iy := rfl
@[simp] theorem State.beginStep_sp (s : State) : s.beginStep.sp = s.sp := rfl
@[simp] theorem State.beginStep_pc (s : State) : s.beginStep.pc = s.pc := rfl
@[simp] theorem State.beginStep_prepc (s : State) : s.beginStep.prepc = s.prepc := rfl
@[simp] theorem State.beginStep_i (s : State) : s.beginStep.i = s.i := rfl
@[simp] theorem State.beginStep_rCount (s : State) : s.beginStep.rCount = s.rCount := rfl
@[simp] theorem State.beginStep_rB7 (s : State) : s.beginStep.rB7 = s.rB7 := rfl
@[simp] theorem State.beginStep_iff1 (s : State) : s.beginStep.iff1 = s.iff1 := rfl
@[simp] theorem State.beginStep_iff2 (s : State) : s.beginStep.iff2 = s.iff2 := rfl
@[simp] theorem State.beginStep_im (s : State) : s.beginStep.im = s.im := rfl
@[simp] theorem State.beginStep_halt (s : State) : s.beginStep.halt = s.halt := rfl
@[simp] theorem State.beginStep_intDefer (s : State) : s.beginStep.intDefer = s.intDefer := rfl
@[simp] theorem State.beginStep_xyMode (s : State) : s.beginStep.xyMode = s.xyMode := rfl
@[simp] theorem State.beginStep_cost (s : State) : s.beginStep.cost = 0 := rfl
@[simp] theorem State.beginStep_toShared (s : State) : s.beginStep.toShared = { s.toShared with bus := [] } := rfl

/-! ### `State.endDefer` -/

@[simp] theorem State.endDefer_a (s : State) : s.endDefer.a = s.a := rfl
@[simp] theorem State.endDefer_f (s : State) : s.endDefer.f = s.f := rfl
@[simp] theorem State.endDefer_b (s : State) : s.endDefer.b = s.b := rfl
@[simp] theorem State.endDefer_c (s : State) : s.endDefer.c = s.c := rfl
@[simp] theorem State.endDefer_d (s : State) : s.endDefer.d = s.d := rfl
@[simp] theorem State.endDefer_e (s : State) : s.endDefer.e = s.e := rfl
@[simp] theorem State.endDefer_h (s : State) : s.endDefer.h = s.h := rfl
@[simp] theorem State.endDefer_l (s : State) : s.endDefer.l = s.l := rfl
@[simp] theorem State.endDefer_af2 (s : State) : s.endDefer.af2 = s.af2 := rfl
@[simp] theorem State.endDefer_bc2 (s : State) : s.endDefer.bc2 = s.bc2 := rfl
@[simp] theorem State.endDefer_de2 (s : State) : s.endDefer.de2 = s.de2 := rfl
@[simp] theorem State.endDefer_hl2 (s : State) : s.endDefer.hl2 = s.hl2 := rfl
@[simp] theorem State.endDefer_ix (s : State) : s.endDefer.ix = s.ix := rfl
@[simp] theorem State.endDefer_iy (s : State) : s.endDefer.iy = s.iy := rfl
@[simp] theorem State.endDefer_sp (s : State) : s.endDefer.sp = s.sp := rfl
@[simp] theorem State.endDefer_pc (s : State) : s.endDefer.pc = s.pc := rfl
@[simp] theorem State.endDefer_prepc (s : State) : s.endDefer.prepc = s.prepc := rfl
@[simp] theorem State.endDefer_i (s : State) : s.endDefer.i = s.i := rfl
@[simp] theorem State.endDefer_rCount (s : State) : s.endDefer.rCount = s.rCount := rfl
@[simp] theorem State.endDefer_rB7 (s : State) : s.endDefer.rB7 = s.rB7 := rfl
@[simp] theorem State.endDefer_iff1 (s : State) : s.endDefer.iff1 = s.iff1 := rfl
@[simp] theorem State.endDefer_iff2 (s : State) : s.endDefer.iff2 = s.iff2 := rfl
@[simp] theorem State.endDefer_im (s : State) : s.endDefer.im = s.im := rfl
@[simp] theorem State.endDefer_halt (s : State) : s.endDefer.halt = s.halt := rfl
@[simp] theorem State.endDefer_intDefer (s : State) : s.endDefer.intDefer = false := rfl
@[simp] theorem State.endDefer_xyMode (s : State) : s.endDefer.xyMode = s.xyMode := rfl
@[simp] theorem State.endDefer_cost (s : State) : s.endDefer.cost = s.cost := rfl
@[simp] theorem State.endDefer_toShared (s : State) : s.endDefer.toShared = s.toShared := rfl

/-! ### `State.startInstr` -/

@[simp] theorem State.startInstr_a (s : State) : s.startInstr.a = s.a := rfl
@[simp] theorem State.startInstr_f (s : State) : s.startInstr.f = s.f := rfl
@[simp] theorem State.startInstr_b (s : State) : s.startInstr.b = s.b := rfl
@[simp] theorem State.startInstr_c (s : State) : s.startInstr.c = s.c := rfl
@[simp] theorem State.startInstr_d (s : State) : s.startInstr.d = s.d := rfl
@[simp] theorem State.startInstr_e (s : State) : s.startInstr.e = s.e := rfl
@[simp] theorem State.startInstr_h (s : State) : s.startInstr.h = s.h := rfl
@[simp] theorem State.startInstr_l (s : State) : s.startInstr.l = s.l := rfl
@[simp] theorem State.startInstr_af2 (s : State) : s.startInstr.af2 = s.af2 := rfl
@[simp] theorem State.startInstr_bc2 (s : State) : s.startInstr.bc2 = s.bc2 := rfl
@[simp] theorem State.startInstr_de2 (s : State) : s.startInstr.de2 = s.de2 := rfl
@[simp] theorem State.startInstr_hl2 (s : State) : s.startInstr.hl2 = s.hl2 := rfl
@[simp] theorem State.startInstr_ix (s : State) : s.startInstr.ix = s.ix := rfl
@[simp] theorem State.startInstr_iy (s : State) : s.startInstr.iy = s.iy := rfl
@[simp] theorem State.startInstr_sp (s : State) : s.startInstr.sp = s.sp := rfl
@[simp] theorem State.startInstr_pc (s : State) : s.startInstr.pc = s.pc := rfl
@[simp] theorem State.startInstr_prepc (s : State) : s.startInstr.prepc = (if s.xyMode = none then s.pc else s.prepc) := rfl
@[simp] theorem State.startInstr_i (s : State) : s.startInstr.i = s.i := rfl
@[simp] theorem State.startInstr_rCount (s : State) : s.startInstr.rCount = s.rCount := rfl
@[simp] theorem State.startInstr_rB7 (s : State) : s.startInstr.rB7 = s.rB7 := rfl
@[simp] theorem State.startInstr_iff1 (s : State) : s.startInstr.iff1 = s.iff1 := rfl
@[simp] theorem State.startInstr_iff2 (s : State) : s.startInstr.iff2 = s.iff2 := rfl
@[simp] theorem State.startInstr_im (s : State) : s.startInstr.im = s.im := rfl
@[simp] theorem State.startInstr_halt (s : State) : s.startInstr.halt = s.halt := rfl
@[simp] theorem State.startInstr_intDefer (s : State) : s.startInstr.intDefer = s.intDefer := rfl
@[simp] theorem State.startInstr_xyMode (s : State) : s.startInstr.xyMode = none := rfl
@[simp] theorem State.startInstr_cost (s : State) : s.startInstr.cost = s.cost := rfl
@[simp] theorem State.startInstr_toShared (s : State) : s.startInstr.toShared = s.toShared := rfl

/-! ### `State.setA` -/

@[simp] theorem State.setA_a (s : State) (v : Byte) : (s.setA v).a = v := rfl
@[simp] theorem State.setA_f (s : State) (v : Byte) : (s.setA v).f = s.f := rfl
@[simp] theorem State.setA_b (s : State) (v : Byte) : (s.setA v).b = s.b := rfl
@[simp] theorem State.setA_c (s : State) (v : Byte) : (s.setA v).c = s.c := rfl
@[simp] theorem State.setA_d (s : State) (v : Byte) : (s.setA v).d = s.d := rfl
@[simp] theorem State.setA_e (s : State) (v : Byte) : (s.setA v).e = s.e := rfl
@[simp] theorem State.setA_h (s : State) (v : Byte) : (s.setA v).h = s.h := rfl
@[simp] theorem State.setA_l (s : State) (v : Byte) : (s.setA v).l = s.l := rfl
@[simp] theorem State.setA_af2 (s : State) (v : Byte) : (s.setA v).af2 = s.af2 := rfl
@[simp] theorem State.setA_bc2 (s : State) (v : Byte) : (s.setA v).bc2 = s.bc2 := rfl
@[simp] theorem State.setA_de2 (s : State) (v : Byte) : (s.setA v).de2 = s.de2 := rfl
@[simp] theorem State.setA_hl2 (s : State) (v : Byte) : (s.setA v).hl2 = s.hl2 := rfl
@[simp] theorem State.setA_ix (s : State) (v : Byte) : (s.setA v).ix = s.ix := rfl
@[simp] theorem State.setA_iy (s : State) (v : Byte) : (s.setA v).iy = s.iy := rfl
@[simp] theorem State.setA_sp (s : State) (v : Byte) : (s.setA v).sp = s.sp := rfl
@[simp] theorem State.setA_pc (s : State) (v : Byte) : (s.setA v).pc = s.pc := rfl
@[simp] theorem State.setA_prepc (s : State) (v : Byte) : (s.setA v).prepc = s.prepc := rfl
@[simp] theorem State.setA_i (s : State) (v : Byte) : (s.setA v).i = s.i := rfl
@[simp] theorem State.setA_rCount (s : State) (v : Byte) : (s.setA v).rCount = s.rCount := rfl
@[simp] theorem State.setA_rB7 (s : State) (v : Byte) : (s.setA v).rB7 = s.rB7 := rfl
@[simp] theorem State.setA_iff1 (s : State) (v : Byte) : (s.setA v).iff1 = s.iff1 := rfl
@[simp] theorem State.setA_iff2 (s : State) (v : Byte) : (s.setA v).iff2 = s.iff2 := rfl
@[simp] theorem State.setA_im (s : State) (v : Byte) : (s.setA v).im = s.im := rfl
@[simp] theorem State.setA_halt (s : State) (v : Byte) : (s.setA v).halt = s.halt := rfl
@[simp] theorem State.setA_intDefer (s : State) (v : Byte) : (s.setA v).intDefer = s.intDefer := rfl
@[simp] theorem State.setA_xyMode (s : State) (v : Byte) : (s.setA v).xyMode = s.xyMode := rfl
@[simp] theorem State.setA_cost (s : State) (v : Byte) : (s.setA v).cost = s.cost := rfl
@[simp] theorem State.setA_toShared (s : State) (v : Byte) : (s.setA v).toShared = s.toShared := rfl

/-! ### `State.setF` -/

@[simp] theorem State.setF_a (s : State) (v : Byte) : (s.setF v).a = s.a := rfl
@[simp] theorem State.setF_f (s : State) (v : Byte) : (s.setF v).f = v := rfl
@[simp] theorem State.setF_b (s : State) (v : Byte) : (s.setF v).b = s.b := rfl
@[simp] theorem State.setF_c (s : State) (v : Byte) : (s.setF v).c = s.c := rfl
@[simp] theorem State.setF_d (s : State) (v : Byte) : (s.setF v).d = s.d := rfl
@[simp] theorem State.setF_e (s : State) (v : Byte) : (s.setF v).e = s.e := rfl
@[simp] theorem State.setF_h (s : State) (v : Byte) : (s.setF v).h = s.h := rfl
@[simp] theorem State.setF_l (s : State) (v : Byte) : (s.setF v).l = s.l := rfl
@[simp] theorem State.setF_af2 (s : State) (v : Byte) : (s.setF v).af2 = s.af2 := rfl
@[simp] theorem State.setF_bc2 (s : State) (v : Byte) : (s.setF v).bc2 = s.bc2 := rfl
@[simp] theorem State.setF_de2 (s : State) (v : Byte) : (s.setF v).de2 = s.de2 := rfl
@[simp] theorem State.setF_hl2 (s : State) (v : Byte) : (s.setF v).hl2 = s.hl2 := rfl
@[simp] theorem State.setF_ix (s : State) (v : Byte) : (s.setF v).ix = s.ix := rfl
@[simp] theorem State.setF_iy (s : State) (v : Byte) : (s.setF v).iy = s.iy := rfl
@[simp] theorem State.setF_sp (s : State) (v : Byte) : (s.setF v).sp = s.sp := rfl
@[simp] theorem State.setF_pc (s : State) (v : Byte) : (s.setF v).pc = s.pc := rfl
@[simp] theorem State.setF_prepc (s : State) (v : Byte) : (s.setF v).prepc = s.prepc := rfl
@[simp] theorem State.setF_i (s : State) (v : Byte) : (s.setF v).i = s.i := rfl
@[simp] theorem State.setF_rCount (s : State) (v : Byte) : (s.setF v).rCount = s.rCount := rfl
@[simp] theorem State.setF_rB7 (s : State) (v : Byte) : (s.setF v).rB7 = s.rB7 := rfl
@[simp] theorem State.setF_iff1 (s : State) (v : Byte) : (s.setF v).iff1 = s.iff1 := rfl
@[simp] theorem State.setF_iff2 (s : State) (v : Byte) : (s.setF v).iff2 = s.iff2 := rfl
@[simp] theorem State.setF_im (s : State) (v : Byte) : (s.setF v).im = s.im := rfl
@[simp] theorem State.setF_halt (s : State) (v : Byte) : (s.setF v).halt = s.halt := rfl
@[simp] theorem State.setF_intDefer (s : State) (v : Byte) : (s.setF v).intDefer = s.intDefer := rfl
@[simp] theorem State.setF_xyMode (s : State) (v : Byte) : (s.setF v).xyMode = s.xyMode := rfl
@[simp] theorem State.setF_cost (s : State) (v : Byte) : (s.setF v).cost = s.cost := rfl
@[simp] theorem State.setF_toShared (s : State) (v : Byte) : (s.setF v).toShared = s.toShared := rfl

/-! ### `State.setB` -/

@[simp] theorem State.setB_a (s : State) (v : Byte) : (s.setB v).a = s.a := rfl
@[simp] theorem State.setB_f (s : State) (v : Byte) : (s.setB v).f = s.f := rfl
@[simp] theorem State.setB_b (s : State) (v : Byte) : (s.setB v).b = v := rfl
@[simp] theorem State.setB_c (s : State) (v : Byte) : (s.setB v).c = s.c := rfl
@[simp] theorem State.setB_d (s : State) (v : Byte) : (s.setB v).d = s.d := rfl
@[simp] theorem State.setB_e (s : State) (v : Byte) : (s.setB v).e = s.e := rfl
@[simp] theorem State.setB_h (s : State) (v : Byte) : (s.setB v).h = s.h := rfl
@[simp] theorem State.setB_l (s : State) (v : Byte) : (s.setB v).l = s.l := rfl
@[simp] theorem State.setB_af2 (s : State) (v : Byte) : (s.setB v).af2 = s.af2 := rfl
@[simp] theorem State.setB_bc2 (s : State) (v : Byte) : (s.setB v).bc2 = s.bc2 := rfl
@[simp] theorem State.setB_de2 (s : State) (v : Byte) : (s.setB v).de2 = s.de2 := rfl
@[simp] theorem State.setB_hl2 (s : State) (v : Byte) : (s.setB v).hl2 = s.hl2 := rfl
@[simp] theorem State.setB_ix (s : State) (v : Byte) : (s.setB v).ix = s.ix := rfl
@[simp] theorem State.setB_iy (s : State) (v : Byte) : (s.setB v).iy = s.iy := rfl
@[simp] theorem State.setB_sp (s : State) (v : Byte) : (s.setB v).sp = s.sp := rfl
@[simp] theorem State.setB_pc (s : State) (v : Byte) : (s.setB v).pc = s.pc := rfl
@[simp] theorem State.setB_prepc (s : State) (v : Byte) : (s.setB v).prepc = s.prepc := rfl
@[simp] theorem State.setB_i (s : State) (v : Byte) : (s.setB v).i = s.i := rfl
@[simp] theorem State.setB_rCount (s : State) (v : Byte) : (s.setB v).rCount = s.rCount := rfl
@[simp] theorem State.setB_rB7 (s : State) (v : Byte) : (s.setB v).rB7 = s.rB7 := rfl
@[simp] theorem State.setB_iff1 (s : State) (v : Byte) : (s.setB v).iff1 = s.iff1 := rfl
@[simp] theorem State.setB_iff2 (s : State) (v : Byte) : (s.setB v).iff2 = s.iff2 := rfl
@[simp] theorem State.setB_im (s : State) (v : Byte) : (s.setB v).im = s.im := rfl
@[simp] theorem State.setB_halt (s : State) (v : Byte) : (s.setB v).halt = s.halt := rfl
@[simp] theorem State.setB_intDefer (s : State) (v : Byte) : (s.setB v).intDefer = s.intDefer := rfl
@[simp] theorem State.setB_xyMode (s : State) (v : Byte) : (s.setB v).xyMode = s.xyMode := rfl
@[simp] theorem State.setB_cost (s : State) (v : Byte) : (s.setB v).cost = s.cost := rfl
@[simp] theorem State.setB_toShared (s : State) (v : Byte) : (s.setB v).toShared = s.toShared := rfl

/-! ### `State.setAf` -/

@[simp] theorem State.setAf_a (s : State) (v : Word) : (s.setAf v).a = hiByte v := rfl
@[simp] theorem State.setAf_f (s : State) (v : Word) : (s.setAf v).f = loByte v := rfl
@[simp] theorem State.setAf_b (s : State) (v : Word) : (s.setAf v).b = s.b := rfl
@[simp] theorem State.setAf_c (s : State) (v : Word) : (s.setAf v).c = s.c := rfl
@[simp] theorem State.setAf_d (s : State) (v : Word) : (s.setAf v).d = s.d := rfl
@[simp] theorem State.setAf_e (s : State) (v : Word) : (s.setAf v).e = s.e := rfl
@[simp] theorem State.setAf_h (s : State) (v : Word) : (s.setAf v).h = s.h := rfl
@[simp] theorem State.setAf_l (s : State) (v : Word) : (s.setAf v).l = s.l := rfl
@[simp] theorem State.setAf_af2 (s : State) (v : Word) : (s.setAf v).af2 = s.af2 := rfl
@[simp] theorem State.setAf_bc2 (s : State) (v : Word) : (s.setAf v).bc2 = s.bc2 := rfl
@[simp] theorem State.setAf_de2 (s : State) (v : Word) : (s.setAf v).de2 = s.de2 := rfl
@[simp] theorem State.setAf_hl2 (s : State) (v : Word) : (s.setAf v).hl2 = s.hl2 := rfl
@[simp] theorem State.setAf_ix (s : State) (v : Word) : (s.setAf v).ix = s.ix := rfl
@[simp] theorem State.setAf_iy (s : State) (v : Word) : (s.setAf v).iy = s.iy := rfl
@[simp] theorem State.setAf_sp (s : State) (v : Word) : (s.setAf v).sp = s.sp := rfl
@[simp] theorem State.setAf_pc (s : State) (v : Word) : (s.setAf v).pc = s.pc := rfl
@[simp] theorem State.setAf_prepc (s : State) (v : Word) : (s.setAf v).prepc = s.prepc := rfl
@[simp] theorem State.setAf_i (s : State) (v : Word) : (s.setAf v).i = s.i := rfl
@[simp] theorem State.setAf_rCount (s : State) (v : Word) : (s.setAf v).rCount = s.rCount := rfl
@[simp] theorem State.setAf_rB7 (s : State) (v : Word) : (s.setAf v).rB7 = s.rB7 := rfl
@[simp] theorem State.setAf_iff1 (s : State) (v : Word) : (s.setAf v).iff1 = s.iff1 := rfl
@[simp] theorem State.setAf_iff2 (s : State) (v : Word) : (s.setAf v).iff2 = s.iff2 := rfl
@[simp] theorem State.setAf_im (s : State) (v : Word) : (s.setAf v).im = s.im := rfl
@[simp] theorem State.setAf_halt (s : State) (v : Word) : (s.setAf v).halt = s.halt := rfl
@[simp] theorem State.setAf_intDefer (s : State) (v : Word) : (s.setAf v).intDefer = s.intDefer := rfl
@[simp] theorem State.setAf_xyMode (s : State) (v : Word) : (s.setAf v).xyMode = s.xyMode := rfl
@[simp] theorem State.setAf_cost (s : State) (v : Word) : (s.setAf v).cost = s.cost := rfl
@[simp] theorem State.setAf_toShared (s : State) (v : Word) : (s.setAf v).toShared = s.toShared := rfl

/-! ### `State.setBc` -/

@[simp] theorem State.setBc_a (s : State) (v : Word) : (s.setBc v).a = s.a := rfl
@[simp] theorem State.setBc_f (s : State) (v : Word) : (s.setBc v).f = s.f := rfl
@[simp] theorem State.setBc_b (s : State) (v : Word) : (s.setBc v).b = hiByte v := rfl
@[simp] theorem State.setBc_c (s : State) (v : Word) : (s.setBc v).c = loByte v := rfl
@[simp] theorem State.setBc_d (s : State) (v : Word) : (s.setBc v).d = s.d := rfl
@[simp] theorem State.setBc_e (s : State) (v : Word) : (s.setBc v).e = s.e := rfl
@[simp] theorem State.setBc_h (s : State) (v : Word) : (s.setBc v).h = s.h := rfl
@[simp] theorem State.setBc_l (s : State) (v : Word) : (s.setBc v).l = s.l := rfl
@[simp] theorem State.setBc_af2 (s : State) (v : Word) : (s.setBc v).af2 = s.af2 := rfl
@[simp] theorem State.setBc_bc2 (s : State) (v : Word) : (s.setBc v).bc2 = s.bc2 := rfl
@[simp] theorem State.setBc_de2 (s : State) (v : Word) : (s.setBc v).de2 = s.de2 := rfl
@[simp] theorem State.setBc_hl2 (s : State) (v : Word) : (s.setBc v).hl2 = s.hl2 := rfl
@[simp] theorem State.setBc_ix (s : State) (v : Word) : (s.setBc v).ix = s.ix := rfl
@[simp] theorem State.setBc_iy (s : State) (v : Word) : (s.setBc v).iy = s.iy := rfl
@[simp] theorem State.setBc_sp (s : State) (v : Word) : (s.setBc v).sp = s.sp := rfl
@[simp] theorem State.setBc_pc (s : State) (v : Word) : (s.setBc v).pc = s.pc := rfl
@[simp] theorem State.setBc_prepc (s : State) (v : Word) : (s.setBc v).prepc = s.prepc := rfl
@[simp] theorem State.setBc_i (s : State) (v : Word) : (s.setBc v).i = s.i := rfl
@[simp] theorem State.setBc_rCount (s : State) (v : Word) : (s.setBc v).rCount = s.rCount := rfl
@[simp] theorem State.setBc_rB7 (s : State) (v : Word) : (s.setBc v).rB7 = s.rB7 := rfl
@[simp] theorem State.setBc_iff1 (s : State) (v : Word) : (s.setBc v).iff1 = s.iff1 := rfl
@[simp] theorem State.setBc_iff2 (s : State) (v : Word) : (s.setBc v).iff2 = s.iff2 := rfl
@[simp] theorem State.setBc_im (s : State) (v : Word) : (s.setBc v).im = s.im := rfl
@[simp] theorem State.setBc_halt (s : State) (v : Word) : (s.setBc v).halt = s.halt := rfl
@[simp] theorem State.setBc_intDefer (s : State) (v : Word) : (s.setBc v).intDefer = s.intDefer := rfl
@[simp] theorem State.setBc_xyMode (s : State) (v : Word) : (s.setBc v).xyMode = s.xyMode := rfl
@[simp] theorem State.setBc_cost (s : State) (v : Word) : (s.setBc v).cost = s.cost := rfl
@[simp] theorem State.setBc_toShared (s : State) (v : Word) : (s.setBc v).toShared = s.toShared := rfl

/-! ### `State.setDe` -/

@[simp] theorem State.setDe_a (s : State) (v : Word) : (s.setDe v).a = s.a := rfl
@[simp] theorem State.setDe_f (s : State) (v : Word) : (s.setDe v).f = s.f := rfl
@[simp] theorem State.setDe_b (s : State) (v : Word) : (s.setDe v).b = s.b := rfl
@[simp] theorem State.setDe_c (s : State) (v : Word) : (s.setDe v).c = s.c := rfl
@[simp] theorem State.setDe_d (s : State) (v : Word) : (s.setDe v).d = hiByte v := rfl
@[simp] theorem State.setDe_e (s : State) (v : Word) : (s.setDe v).e = loByte v := rfl
@[simp] theorem State.setDe_h (s : State) (v : Word) : (s.setDe v).h = s.h := rfl
@[simp] theorem State.setDe_l (s : State) (v : Word) : (s.setDe v).l = s.l := rfl
@[simp] theorem State.setDe_af2 (s : State) (v : Word) : (s.setDe v).af2 = s.af2 := rfl
@[simp] theorem State.setDe_bc2 (s : State) (v : Word) : (s.setDe v).bc2 = s.bc2 := rfl
@[simp] theorem State.setDe_de2 (s : State) (v : Word) : (s.setDe v).de2 = s.de2 := rfl
@[simp] theorem State.setDe_hl2 (s : State) (v : Word) : (s.setDe v).hl2 = s.hl2 := rfl
@[simp] theorem State.setDe_ix (s : State) (v : Word) : (s.setDe v).ix = s.ix := rfl
@[simp] theorem State.setDe_iy (s : State) (v : Word) : (s.setDe v).iy = s.iy := rfl
@[simp] theorem State.setDe_sp (s : State) (v : Word) : (s.setDe v).sp = s.sp := rfl
@[simp] theorem State.setDe_pc (s : State) (v : Word) : (s.setDe v).pc = s.pc := rfl
@[simp] theorem State.setDe_prepc (s : State) (v : Word) : (s.setDe v).prepc = s.prepc := rfl
@[simp] theorem State.setDe_i (s : State) (v : Word) : (s.setDe v).i = s.i := rfl
@[simp] theorem State.setDe_rCount (s : State) (v : Word) : (s.setDe v).rCount = s.rCount := rfl
@[simp] theorem State.setDe_rB7 (s : State) (v : Word) : (s.setDe v).rB7 = s.rB7 := rfl
@[simp] theorem State.setDe_iff1 (s : State) (v : Word) : (s.setDe v).iff1 = s.iff1 := rfl
@[simp] theorem State.setDe_iff2 (s : State) (v : Word) : (s.setDe v).iff2 = s.iff2 := rfl
@[simp] theorem State.setDe_im (s : State) (v : Word) : (s.setDe v).im = s.im := rfl
@[simp] theorem State.setDe_halt (s : State) (v : Word) : (s.setDe v).halt = s.halt := rfl
@[simp] theorem State.setDe_intDefer (s : State) (v : Word) : (s.setDe v).intDefer = s.intDefer := rfl
@[simp] theorem State.setDe_xyMode (s : State) (v : Word) : (s.setDe v).xyMode = s.xyMode := rfl
@[simp] theorem State.setDe_cost (s : State) (v : Word) : (s.setDe v).cost = s.cost := rfl
@[simp] theorem State.setDe_toShared (s : State) (v : Word) : (s.setDe v).toShared = s.toShared := rfl

/-! ### `State.setHl` -/

@[simp] theorem State.setHl_a (s : State) (v : Word) : (s.setHl v).a = s.a := rfl
@[simp] theorem State.setHl_f (s : State) (v : Word) : (s.setHl v).f = s.f := rfl
@[simp] theorem State.setHl_b (s : State) (v : Word) : (s.setHl v).b = s.b := rfl
@[simp] theorem State.setHl_c (s : State) (v : Word) : (s.setHl v).c = s.c := rfl
@[simp] theorem State.setHl_d (s : State) (v : Word) : (s.setHl v).d = s.d := rfl
@[simp] theorem State.setHl_e (s : State) (v : Word) : (s.setHl v).e = s.e := rfl
@[simp] theorem State.setHl_h (s : State) (v : Word) : (s.setHl v).h = hiByte v := rfl
@[simp] theorem State.setHl_l (s : State) (v : Word) : (s.setHl v).l = loByte v := rfl
@[simp] theorem State.setHl_af2 (s : State) (v : Word) : (s.setHl v).af2 = s.af2 := rfl
@[simp] theorem State.setHl_bc2 (s : State) (v : Word) : (s.setHl v).bc2 = s.bc2 := rfl
@[simp] theorem State.setHl_de2 (s : State) (v : Word) : (s.setHl v).de2 = s.de2 := rfl
@[simp] theorem State.setHl_hl2 (s : State) (v : Word) : (s.setHl v).hl2 = s.hl2 := rfl
@[simp] theorem State.setHl_ix (s : State) (v : Word) : (s.setHl v).ix = s.ix := rfl
@[simp] theorem State.setHl_iy (s : State) (v : Word) : (s.setHl v).iy = s.iy := rfl
@[simp] theorem State.setHl_sp (s : State) (v : Word) : (s.setHl v).sp = s.sp := rfl
@[simp] theorem State.setHl_pc (s : State) (v : Word) : (s.setHl v).pc = s.pc := rfl
@[simp] theorem State.setHl_prepc (s : State) (v : Word) : (s.setHl v).prepc = s.prepc := rfl
@[simp] theorem State.setHl_i (s : State) (v : Word) : (s.setHl v).i = s.i := rfl
@[simp] theorem State.setHl_rCount (s : State) (v : Word) : (s.setHl v).rCount = s.rCount := rfl
@[simp] theorem State.setHl_rB7 (s : State) (v : Word) : (s.setHl v).rB7 = s.rB7 := rfl
@[simp] theorem State.setHl_iff1 (s : State) (v : Word) : (s.setHl v).iff1 = s.iff1 := rfl
@[simp] theorem State.setHl_iff2 (s : State) (v : Word) : (s.setHl v).iff2 = s.iff2 := rfl
@[simp] theorem State.setHl_im (s : State) (v : Word) : (s.setHl v).im = s.im := rfl
@[simp] theorem State.setHl_halt (s : State) (v : Word) : (s.setHl v).halt = s.halt := rfl
@[simp] theorem State.setHl_intDefer (s : State) (v : Word) : (s.setHl v).intDefer = s.intDefer := rfl
@[simp] theorem State.setHl_xyMode (s : State) (v : Word) : (s.setHl v).xyMode = s.xyMode := rfl
@[simp] theorem State.setHl_cost (s : State) (v : Word) : (s.setHl v).cost = s.cost := rfl
@[simp] theorem State.setHl_toShared (s : State) (v : Word) : (s.setHl v).toShared = s.toShared := rfl

/-! ### `State.setSp` -/

@[simp] theorem State.setSp_a (s : State) (v : Word) : (s.setSp v).a = s.a := rfl
@[simp] theorem State.setSp_f (s : State) (v : Word) : (s.setSp v).f = s.f := rfl
@[simp] theorem State.setSp_b (s : State) (v : Word) : (s.setSp v).b = s.b := rfl
@[simp] theorem State.setSp_c (s : State) (v : Word) : (s.setSp v).c = s.c := rfl
@[simp] theorem State.setSp_d (s : State) (v : Word) : (s.setSp v).d = s.d := rfl
@[simp] theorem State.setSp_e (s : State) (v : Word) : (s.setSp v).e = s.e := rfl
@[simp] theorem State.setSp_h (s : State) (v : Word) : (s.setSp v).h = s.h := rfl
@[simp] theorem State.setSp_l (s : State) (v : Word) : (s.setSp v).l = s.l := rfl
@[simp] theorem State.setSp_af2 (s : State) (v : Word) : (s.setSp v).af2 = s.af2 := rfl
@[simp] theorem State.setSp_bc2 (s : State) (v : Word) : (s.setSp v).bc2 = s.bc2 := rfl
@[simp] theorem State.setSp_de2 (s : State) (v : Word) : (s.setSp v).de2 = s.de2 := rfl
@[simp] theorem State.setSp_hl2 (s : State) (v : Word) : (s.setSp v).hl2 = s.hl2 := rfl
@[simp] theorem State.setSp_ix (s : State) (v : Word) : (s.setSp v).ix = s.ix := rfl
@[simp] theorem State.setSp_iy (s : State) (v : Word) : (s.setSp v).iy = s.iy := rfl
@[simp] theorem State.setSp_sp (s : State) (v : Word) : (s.setSp v).sp = v := rfl
@[simp] theorem State.setSp_pc (s : State) (v : Word) : (s.setSp v).pc = s.pc := rfl
@[simp] theorem State.setSp_prepc (s : State) (v : Word) : (s.setSp v).prepc = s.prepc := rfl
@[simp] theorem State.setSp_i (s : State) (v : Word) : (s.setSp v).i = s.i := rfl
@[simp] theorem State.setSp_rCount (s : State) (v : Word) : (s.setSp v).rCount = s.rCount := rfl
@[simp] theorem State.setSp_rB7 (s : State) (v : Word) : (s.setSp v).rB7 = s.rB7 := rfl
@[simp] theorem State.setSp_iff1 (s : State) (v : Word) : (s.setSp v).iff1 = s.iff1 := rfl
@[simp] theorem State.setSp_iff2 (s : State) (v : Word) : (s.setSp v).iff2 = s.iff2 := rfl
@[simp] theorem State.setSp_im (s : State) (v : Word) : (s.setSp v).im = s.im := rfl
@[simp] theorem State.setSp_halt (s : State) (v : Word) : (s.setSp v).halt = s.halt := rfl
@[simp] theorem State.setSp_intDefer (s : State) (v : Word) : (s.setSp v).intDefer = s.intDefer := rfl
@[simp] theorem State.setSp_xyMode (s : State) (v : Word) : (s.setSp v).xyMode = s.xyMode := rfl
@[simp] theorem State.setSp_cost (s : State) (v : Word) : (s.setSp v).cost = s.cost := rfl
@[simp] theorem State.setSp_toShared (s : State) (v : Word) : (s.setSp v).toShared = s.toShared := rfl

/-! ### `State.setPc` -/

@[simp] theorem State.setPc_a (s : State) (v : Word) : (s.setPc v).a = s.a := rfl
@[simp] theorem State.setPc_f (s : State) (v : Word) : (s.setPc v).f = s.f := rfl
@[simp] theorem State.setPc_b (s : State) (v : Word) : (s.setPc v).b = s.b := rfl
@[simp] theorem State.setPc_c (s : State) (v : Word) : (s.setPc v).c = s.c := rfl
@[simp] theorem State.setPc_d (s : State) (v : Word) : (s.setPc v).d = s.d := rfl
@[simp] theorem State.setPc_e (s : State) (v : Word) : (s.setPc v).e = s.e := rfl
@[simp] theorem State.setPc_h (s : State) (v : Word) : (s.setPc v).h = s.h := rfl
@[simp] theorem State.setPc_l (s : State) (v : Word) : (s.setPc v).l = s.l := rfl
@[simp] theorem State.setPc_af2 (s : State) (v : Word) : (s.setPc v).af2 = s.af2 := rfl
@[simp] theorem State.setPc_bc2 (s : State) (v : Word) : (s.setPc v).bc2 = s.bc2 := rfl
@[simp] theorem State.setPc_de2 (s : State) (v : Word) : (s.setPc v).de2 = s.de2 := rfl
@[simp] theorem State.setPc_hl2 (s : State) (v : Word) : (s.setPc v).hl2 = s.hl2 := rfl
@[simp] theorem State.setPc_ix (s : State) (v : Word) : (s.setPc v).ix = s.ix := rfl
@[simp] theorem State.setPc_iy (s : State) (v : Word) : (s.setPc v).iy = s.iy := rfl
@[simp] theorem State.setPc_sp (s : State) (v : Word) : (s.setPc v).sp = s.sp := rfl
@[simp] theorem State.setPc_pc (s : State) (v : Word) : (s.setPc v).pc = v := rfl
@[simp] theorem State.setPc_prepc (s : State) (v : Word) : (s.setPc v).prepc = s.prepc := rfl
@[simp] theorem State.setPc_i (s : State) (v : Word) : (s.setPc v).i = s.i := rfl
@[simp] theorem State.setPc_rCount (s : State) (v : Word) : (s.setPc v).rCount = s.rCount := rfl
@[simp] theorem State.setPc_rB7 (s : State) (v : Word) : (s.setPc v).rB7 = s.rB7 := rfl
@[simp] theorem State.setPc_iff1 (s : State) (v : Word) : (s.setPc v).iff1 = s.iff1 := rfl
@[simp] theorem State.setPc_iff2 (s : State) (v : Word) : (s.setPc v).iff2 = s.iff2 := rfl
@[simp] theorem State.setPc_im (s : State) (v : Word) : (s.setPc v).im = s.im := rfl
@[simp] theorem State.setPc_halt (s : State) (v : Word) : (s.setPc v).halt = s.halt := rfl
@[simp] theorem State.setPc_intDefer (s : State) (v : Word) : (s.setPc v).intDefer = s.intDefer := rfl
@[simp] theorem State.setPc_xyMode (s : State) (v : Word) : (s.setPc v).xyMode = s.xyMode := rfl
@[simp] theorem State.setPc_cost (s : State) (v : Word) : (s.setPc v).cost = s.cost := rfl
@[simp] theorem State.setPc_toShared (s : State) (v : Word) : (s.setPc v).toShared = s.toShared := rfl

/-! ### `memWrite` -/

@[simp] theorem memWrite_a (a : Word) (v : Byte) (s : State) : (memWrite a v s).a = s.a := rfl
@[simp] theorem memWrite_f (a : Word) (v : Byte) (s : State) : (memWrite a v s).f = s.f := rfl
@[simp] theorem memWrite_b (a : Word) (v : Byte) (s : State) : (memWrite a v s).b = s.b := rfl
@[simp] theorem memWrite_c (a : Word) (v : Byte) (s : State) : (memWrite a v s).c = s.c := rfl
@[simp] theorem memWrite_d (a : Word) (v : Byte) (s : State) : (memWrite a v s).d = s.d := rfl
@[simp] theorem memWrite_e (a : Word) (v : Byte) (s : State) : (memWrite a v s).e = s.e := rfl
@[simp] theorem memWrite_h (a : Word) (v : Byte) (s : State) : (memWrite a v s).h = s.h := rfl
@[simp] theorem memWrite_l (a : Word) (v : Byte) (s : State) : (memWrite a v s).l = s.l := rfl
@[simp] theorem memWrite_af2 (a : Word) (v : Byte) (s : State) : (memWrite a v s).af2 = s.af2 := rfl
@[simp] theorem memWrite_bc2 (a : Word) (v : Byte) (s : State) : (memWrite a v s).bc2 = s.bc2 := rfl
@[simp] theorem memWrite_de2 (a : Word) (v : Byte) (s : State) : (memWrite a v s).de2 = s.de2 := rfl
@[simp] theorem memWrite_hl2 (a : Word) (v : Byte) (s : State) : (memWrite a v s).hl2 = s.hl2 := rfl
@[simp] theorem memWrite_ix (a : Word) (v : Byte) (s : State) : (memWrite a v s).ix = s.ix := rfl
@[simp] theorem memWrite_iy (a : Word) (v : Byte) (s : State) : (memWrite a v s).iy = s.iy := rfl
@[simp] theorem memWrite_sp (a : Word) (v : Byte) (s : State) : (memWrite a v s).sp = s.sp := rfl
@[simp] theorem memWrite_pc (a : Word) (v : Byte) (s : State) : (memWrite a v s).pc = s.pc := rfl
@[simp] theorem memWrite_prepc (a : Word) (v : Byte) (s : State) : (memWrite a v s).prepc = s.prepc := rfl
@[simp] theorem memWrite_i (a : Word) (v : Byte) (s : State) : (memWrite a v s).i = s.i := rfl
@[simp] theorem memWrite_rCount (a : Word) (v : Byte) (s : State) : (memWrite a v s).rCount = s.rCount := rfl
@[simp] theorem memWrite_rB7 (a : Word) (v : Byte) (s : State) : (memWrite a v s).rB7 = s.rB7 := rfl
@[simp] theorem memWrite_iff1 (a : Word) (v : Byte) (s : State) : (memWrite a v s).iff1 = s.iff1 := rfl
@[simp] theorem memWrite_iff2 (a : Word) (v : Byte) (s : State) : (memWrite a v s).iff2 = s.iff2 := rfl
@[simp] theorem memWrite_im (a : Word) (v : Byte) (s : State) : (memWrite a v s).im = s.im := rfl
@[simp] theorem memWrite_halt (a : Word) (v : Byte) (s : State) : (memWrite a v s).halt = s.halt := rfl
@[simp] theorem memWrite_intDefer (a : Word) (v : Byte) (s : State) : (memWrite a v s).intDefer = s.intDefer := rfl
@[simp] theorem memWrite_xyMode (a : Word) (v : Byte) (s : State) : (memWrite a v s).xyMode = s.xyMode := rfl
@[simp] theorem memWrite_cost (a : Word) (v : Byte) (s : State) : (memWrite a v s).cost = s.cost := rfl
@[simp] theorem memWrite_toShared (a : Word) (v : Byte) (s : State) : (memWrite a v s).toShared = s.toShared.perform (.memWrite a v) := rfl

/-! ### `portWrite` -/

@[simp] theorem portWrite_a (p : Word) (v : Byte) (s : State) : (portWrite p v s).a = s.a := rfl
@[simp] theorem portWrite_f (p : Word) (v : Byte) (s : State) : (portWrite p v s).f = s.f := rfl
@[simp] theorem portWrite_b (p : Word) (v : Byte) (s : State) : (portWrite p v s).b = s.b := rfl
@[simp] theorem portWrite_c (p : Word) (v : Byte) (s : State) : (portWrite p v s).c = s.c := rfl
@[simp] theorem portWrite_d (p : Word) (v : Byte) (s : State) : (portWrite p v s).d = s.d := rfl
@[simp] theorem portWrite_e (p : Word) (v : Byte) (s : State) : (portWrite p v s).e = s.e := rfl
@[simp] theorem portWrite_h (p : Word) (v : Byte) (s : State) : (portWrite p v s).h = s.h := rfl
@[simp] theorem portWrite_l (p : Word) (v : Byte) (s : State) : (portWrite p v s).l = s.l := rfl
@[simp] theorem portWrite_af2 (p : Word) (v : Byte) (s : State) : (portWrite p v s).af2 = s.af2 := rfl
@[simp] theorem portWrite_bc2 (p : Word) (v : Byte) (s : State) : (portWrite p v s).bc2 = s.bc2 := rfl
@[simp] theorem portWrite_de2 (p : Word) (v : Byte) (s : State) : (portWrite p v s).de2 = s.de2 := rfl
@[simp] theorem portWrite_hl2 (p : Word) (v : Byte) (s : State) : (portWrite p v s).hl2 = s.hl2 := rfl
@[simp] theorem portWrite_ix (p : Word) (v : Byte) (s : State) : (portWrite p v s).ix = s.ix := rfl
@[simp] theorem portWrite_iy (p : Word) (v : Byte) (s : State) : (portWrite p v s).iy = s.iy := rfl
@[simp] theorem portWrite_sp (p : Word) (v : Byte) (s : State) : (portWrite p v s).sp = s.sp := rfl
@[simp] theorem portWrite_pc (p : Word) (v : Byte) (s : State) : (portWrite p v s).pc = s.pc := rfl
@[simp] theorem portWrite_prepc (p : Word) (v : Byte) (s : State) : (portWrite p v s).prepc = s.prepc := rfl
@[simp] theorem portWrite_i (p : Word) (v : Byte) (s : State) : (portWrite p v s).i = s.i := rfl
@[simp] theorem portWrite_rCount (p : Word) (v : Byte) (s : State) : (portWrite p v s).rCount = s.rCount := rfl
@[simp] theorem portWrite_rB7 (p : Word) (v : Byte) (s : State) : (portWrite p v s).rB7 = s.rB7 := rfl
@[simp] theorem portWrite_iff1 (p : Word) (v : Byte) (s : State) : (portWrite p v s).iff1 = s.iff1 := rfl
@[simp] theorem portWrite_iff2 (p : Word) (v : Byte) (s : State) : (portWrite p v s).iff2 = s.iff2 := rfl
@[simp] theorem portWrite_im (p : Word) (v : Byte) (s : State) : (portWrite p v s).im = s.im := rfl
@[simp] theorem portWrite_halt (p : Word) (v : Byte) (s : State) : (portWrite p v s).halt = s.halt := rfl
@[simp] theorem portWrite_intDefer (p : Word) (v : Byte) (s : State) : (portWrite p v s).intDefer = s.intDefer := rfl
@[simp] theorem portWrite_xyMode (p : Word) (v : Byte) (s : State) : (portWrite p v s).xyMode = s.xyMode := rfl
@[simp] theorem portWrite_cost (p : Word) (v : Byte) (s : State) : (portWrite p v s).cost = s.cost := rfl
@[simp] theorem portWrite_toShared (p : Word) (v : Byte) (s : State) : (portWrite p v s).toShared = s.toShared.perform (.portWrite p v) := rfl

/-! ### `fetchOpcode` -/

@[simp] theorem fetchOpcode_a (s : State) : (fetchOpcode s).a = s.a := rfl
@[simp] theorem fetchOpcode_f (s : State) : (fetchOpcode s).f = s.f := rfl
@[simp] theorem fetchOpcode_b (s : State) : (fetchOpcode s).b = s.b := rfl
@[simp] theorem fetchOpcode_c (s : State) : (fetchOpcode s).c = s.c := rfl
@[simp] theorem fetchOpcode_d (s : State) : (fetchOpcode s).d = s.d := rfl
@[simp] theorem fetchOpcode_e (s : State) : (fetchOpcode s).e = s.e := rfl
@[simp] theorem fetchOpcode_h (s : State) : (fetchOpcode s).h = s.h := rfl
@[simp] theorem fetchOpcode_l (s : State) : (fetchOpcode s).l = s.l := rfl
@[simp] theorem fetchOpcode_af2 (s : State) : (fetchOpcode s).af2 = s.af2 := rfl
@[simp] theorem fetchOpcode_bc2 (s : State) : (fetchOpcode s).bc2 = s.bc2 := rfl
@[simp] theorem fetchOpcode_de2 (s : State) : (fetchOpcode s).de2 = s.de2 := rfl
@[simp] theorem fetchOpcode_hl2 (s : State) : (fetchOpcode s).hl2 = s.hl2 := rfl
@[simp] theorem fetchOpcode_ix (s : State) : (fetchOpcode s).ix = s.ix := rfl
@[simp] theorem fetchOpcode_iy (s : State) : (fetchOpcode s).iy = s.iy := rfl
@[simp] theorem fetchOpcode_sp (s : State) : (fetchOpcode s).sp = s.sp := rfl
@[simp] theorem fetchOpcode_pc (s : State) : (fetchOpcode s).pc = s.pc + 1 := rfl
@[simp] theorem fetchOpcode_prepc (s : State) : (fetchOpcode s).prepc = s.prepc := rfl
@[simp] theorem fetchOpcode_i (s : State) : (fetchOpcode s).i = s.i := rfl
@[simp] theorem fetchOpcode_rCount (s : State) : (fetchOpcode s).rCount = s.rCount + 1 := rfl
@[simp] theorem fetchOpcode_rB7 (s : State) : (fetchOpcode s).rB7 = s.rB7 := rfl
@[simp] theorem fetchOpcode_iff1 (s : State) : (fetchOpcode s).iff1 = s.iff1 := rfl
@[simp] theorem fetchOpcode_iff2 (s : State) : (fetchOpcode s).iff2 = s.iff2 := rfl
@[simp] theorem fetchOpcode_im (s : State) : (fetchOpcode s).im = s.im := rfl
@[simp] theorem fetchOpcode_halt (s : State) : (fetchOpcode s).halt = s.halt := rfl
@[simp] theorem fetchOpcode_intDefer (s : State) : (fetchOpcode s).intDefer = s.intDefer := rfl
@[simp] theorem fetchOpcode_xyMode (s : State) : (fetchOpcode s).xyMode = s.xyMode := rfl
@[simp] theorem fetchOpcode_cost (s : State) : (fetchOpcode s).cost = s.cost := rfl
@[simp] theorem fetchOpcode_toShared (s : State) : (fetchOpcode s).toShared = s.toShared.perform (.memRead .opcode s.pc (s.hear s.pc)) := rfl

/-! ### `fetchArg` -/

@[simp] theorem fetchArg_a (s : State) : (fetchArg s).a = s.a := rfl
@[simp] theorem fetchArg_f (s : State) : (fetchArg s).f = s.f := rfl
@[simp] theorem fetchArg_b (s : State) : (fetchArg s).b = s.b := rfl
@[simp] theorem fetchArg_c (s : State) : (fetchArg s).c = s.c := rfl
@[simp] theorem fetchArg_d (s : State) : (fetchArg s).d = s.d := rfl
@[simp] theorem fetchArg_e (s : State) : (fetchArg s).e = s.e := rfl
@[simp] theorem fetchArg_h (s : State) : (fetchArg s).h = s.h := rfl
@[simp] theorem fetchArg_l (s : State) : (fetchArg s).l = s.l := rfl
@[simp] theorem fetchArg_af2 (s : State) : (fetchArg s).af2 = s.af2 := rfl
@[simp] theorem fetchArg_bc2 (s : State) : (fetchArg s).bc2 = s.bc2 := rfl
@[simp] theorem fetchArg_de2 (s : State) : (fetchArg s).de2 = s.de2 := rfl
@[simp] theorem fetchArg_hl2 (s : State) : (fetchArg s).hl2 = s.hl2 := rfl
@[simp] theorem fetchArg_ix (s : State) : (fetchArg s).ix = s.ix := rfl
@[simp] theorem fetchArg_iy (s : State) : (fetchArg s).iy = s.iy := rfl
@[simp] theorem fetchArg_sp (s : State) : (fetchArg s).sp = s.sp := rfl
@[simp] theorem fetchArg_pc (s : State) : (fetchArg s).pc = s.pc + 1 := rfl
@[simp] theorem fetchArg_prepc (s : State) : (fetchArg s).prepc = s.prepc := rfl
@[simp] theorem fetchArg_i (s : State) : (fetchArg s).i = s.i := rfl
@[simp] theorem fetchArg_rCount (s : State) : (fetchArg s).rCount = s.rCount := rfl
@[simp] theorem fetchArg_rB7 (s : State) : (fetchArg s).rB7 = s.rB7 := rfl
@[simp] theorem fetchArg_iff1 (s : State) : (fetchArg s).iff1 = s.iff1 := rfl
@[simp] theorem fetchArg_iff2 (s : State) : (fetchArg s).iff2 = s.iff2 := rfl
@[simp] theorem fetchArg_im (s : State) : (fetchArg s).im = s.im := rfl
@[simp] theorem fetchArg_halt (s : State) : (fetchArg s).halt = s.halt := rfl
@[simp] theorem fetchArg_intDefer (s : State) : (fetchArg s).intDefer = s.intDefer := rfl
@[simp] theorem fetchArg_xyMode (s : State) : (fetchArg s).xyMode = s.xyMode := rfl
@[simp] theorem fetchArg_cost (s : State) : (fetchArg s).cost = s.cost := rfl
@[simp] theorem fetchArg_toShared (s : State) : (fetchArg s).toShared = s.toShared.perform (.memRead .arg s.pc (s.hear s.pc)) := rfl

/-! ### `State.setR8`: the fields it never writes -/

@[simp] theorem State.setR8_f (s : State) (r : Reg8) (v : Byte) : (s.setR8 r v).f = s.f := by cases r <;> rfl
@[simp] theorem State.setR8_af2 (s : State) (r : Reg8) (v : Byte) : (s.setR8 r v).af2 = s.af2 := by cases r <;> rfl
@[simp] theorem State.setR8_bc2 (s : State) (r : Reg8) (v : Byte) : (s.setR8 r v).bc2 = s.bc2 := by cases r <;> rfl
@[simp] theorem State.setR8_de2 (s : State) (r : Reg8) (v : Byte) : (s.setR8 r v).de2 = s.de2 := by cases r <;> rfl
@[simp] theorem State.setR8_hl2 (s : State) (r : Reg8) (v : Byte) : (s.setR8 r v).hl2 = s.hl2 := by cases r <;> rfl
@[simp] theorem State.setR8_ix (s : State) (r : Reg8) (v : Byte) : (s.setR8 r v).ix = s.ix := by cases r <;> rfl
@[simp] theorem State.setR8_iy (s : State) (r : Reg8) (v : Byte) : (s.setR8 r v).iy = s.iy := by cases r <;> rfl
@[simp] theorem State.setR8_sp (s : State) (r : Reg8) (v : Byte) : (s.setR8 r v).sp = s.sp := by cases r <;> rfl
@[simp] theorem State.setR8_pc (s : State) (r : Reg8) (v : Byte) : (s.setR8 r v).pc = s.pc := by cases r <;> rfl
@[simp] theorem State.setR8_prepc (s : State) (r : Reg8) (v : Byte) : (s.setR8 r v).prepc = s.prepc := by cases r <;> rfl
@[simp] theorem State.setR8_i (s : State) (r : Reg8) (v : Byte) : (s.setR8 r v).i = s.i := by cases r <;> rfl
@[simp] theorem State.setR8_rCount (s : State) (r : Reg8) (v : Byte) : (s.setR8 r v).rCount = s.rCount := by cases r <;> rfl
@[simp] theorem State.setR8_rB7 (s : State) (r : Reg8) (v : Byte) : (s.setR8 r v).rB7 = s.rB7 := by cases r <;> rfl
@[simp] theorem State.setR8_iff1 (s : State) (r : Reg8) (v : Byte) : (s.setR8 r v).iff1 = s.iff1 := by cases r <;> rfl
@[simp] theorem State.setR8_iff2 (s : State) (r : Reg8) (v : Byte) : (s.setR8 r v).iff2 = s.iff2 := by cases r <;> rfl
@[simp] theorem State.setR8_im (s : State) (r : Reg8) (v : Byte) : (s.setR8 r v).im = s.im := by cases r <;> rfl
@[simp] theorem State.setR8_halt (s : State) (r : Reg8) (v : Byte) : (s.setR8 r v).halt = s.halt := by cases r <;> rfl
@[simp] theorem State.setR8_intDefer (s : State) (r : Reg8) (v : Byte) : (s.setR8 r v).intDefer = s.intDefer := by cases r <;> rfl
@[simp] theorem State.setR8_xyMode (s : State) (r : Reg8) (v : Byte) : (s.setR8 r v).xyMode = s.xyMode := by cases r <;> rfl
@[simp] theorem State.setR8_cost (s : State) (r : Reg8) (v : Byte) : (s.setR8 r v).cost = s.cost := by cases r <;> rfl
@[simp] theorem State.setR8_toShared (s : State) (r : Reg8) (v : Byte) : (s.setR8 r v).toShared = s.toShared := by cases r <;> rfl

/-! ### `State.setRp`: the fields it never writes -/

@[simp] theorem State.setRp_a (s : State) (p : RegP) (v : Word) : (s.setRp p v).a = s.a := by cases p <;> rfl
@[simp] theorem State.setRp_f (s : State) (p : RegP) (v : Word) : (s.setRp p v).f = s.f := by cases p <;> rfl
@[simp] theorem State.setRp_af2 (s : State) (p : RegP) (v : Word) : (s.setRp p v).af2 = s.af2 := by cases p <;> rfl
@[simp] theorem State.setRp_bc2 (s : State) (p : RegP) (v : Word) : (s.setRp p v).bc2 = s.bc2 := by cases p <;> rfl
@[simp] theorem State.setRp_de2 (s : State) (p : RegP) (v : Word) : (s.setRp p v).de2 = s.de2 := by cases p <;> rfl
@[simp] theorem State.setRp_hl2 (s : State) (p : RegP) (v : Word) : (s.setRp p v).hl2 = s.hl2 := by cases p <;> rfl
@[simp] theorem State.setRp_ix (s : State) (p : RegP) (v : Word) : (s.setRp p v).ix = s.ix := by cases p <;> rfl
@[simp] theorem State.setRp_iy (s : State) (p : RegP) (v : Word) : (s.setRp p v).iy = s.iy := by cases p <;> rfl
@[simp] theorem State.setRp_pc (s : State) (p : RegP) (v : Word) : (s.setRp p v).pc = s.pc := by cases p <;> rfl
@[simp] theorem State.setRp_prepc (s : State) (p : RegP) (v : Word) : (s.setRp p v).prepc = s.prepc := by cases p <;> rfl
@[simp] theorem State.setRp_i (s : State) (p : RegP) (v : Word) : (s.setRp p v).i = s.i := by cases p <;> rfl
@[simp] theorem State.setRp_rCount (s : State) (p : RegP) (v : Word) : (s.setRp p v).rCount = s.rCount := by cases p <;> rfl
@[simp] theorem State.setRp_rB7 (s : State) (p : RegP) (v : Word) : (s.setRp p v).rB7 = s.rB7 := by cases p <;> rfl
@[simp] theorem State.setRp_iff1 (s : State) (p : RegP) (v : Word) : (s.setRp p v).iff1 = s.iff1 := by cases p <;> rfl
@[simp] theorem State.setRp_iff2 (s : State) (p : RegP) (v : Word) : (s.setRp p v).iff2 = s.iff2 := by cases p <;> rfl
@[simp] theorem State.setRp_im (s : State) (p : RegP) (v : Word) : (s.setRp p v).im = s.im := by cases p <;> rfl
@[simp] theorem State.setRp_halt (s : State) (p : RegP) (v : Word) : (s.setRp p v).halt = s.halt := by cases p <;> rfl
@[simp] theorem State.setRp_intDefer (s : State) (p : RegP) (v : Word) : (s.setRp p v).intDefer = s.intDefer := by cases p <;> rfl
@[simp] theorem State.setRp_xyMode (s : State) (p : RegP) (v : Word) : (s.setRp p v).xyMode = s.xyMode := by cases p <;> rfl
@[simp] theorem State.setRp_cost (s : State) (p : RegP) (v : Word) : (s.setRp p v).cost = s.cost := by cases p <;> rfl
@[simp] theorem State.setRp_toShared (s : State) (p : RegP) (v : Word) : (s.setRp p v).toShared = s.toShared := by cases p <;> rfl

/-! ### `State.setRq`: the fields it never writes -/

@[simp] theorem State.setRq_af2 (s : State) (q : RegQ) (v : Word) : (s.setRq q v).af2 = s.af2 := by cases q <;> rfl
@[simp] theorem State.setRq_bc2 (s : State) (q : RegQ) (v : Word) : (s.setRq q v).bc2 = s.bc2 := by cases q <;> rfl
@[simp] theorem State.setRq_de2 (s : State) (q : RegQ) (v : Word) : (s.setRq q v).de2 = s.de2 := by cases q <;> rfl
@[simp] theorem State.setRq_hl2 (s : State) (q : RegQ) (v : Word) : (s.setRq q v).hl2 = s.hl2 := by cases q <;> rfl
@[simp] theorem State.setRq_ix (s : State) (q : RegQ) (v : Word) : (s.setRq q v).ix = s.ix := by cases q <;> rfl
@[simp] theorem State.setRq_iy (s : State) (q : RegQ) (v : Word) : (s.setRq q v).iy = s.iy := by cases q <;> rfl
@[simp] theorem State.setRq_sp (s : State) (q : RegQ) (v : Word) : (s.setRq q v).sp = s.sp := by cases q <;> rfl
@[simp] theorem State.setRq_pc (s : State) (q : RegQ) (v : Word) : (s.setRq q v).pc = s.pc := by cases q <;> rfl
@[simp] theorem State.setRq_prepc (s : State) (q : RegQ) (v : Word) : (s.setRq q v).prepc = s.prepc := by cases q <;> rfl
@[simp] theorem State.setRq_i (s : State) (q : RegQ) (v : Word) : (s.setRq q v).i = s.i := by cases q <;> rfl
@[simp] theorem State.setRq_rCount (s : State) (q : RegQ) (v : Word) : (s.setRq q v).rCount = s.rCount := by cases q <;> rfl
@[simp] theorem State.setRq_rB7 (s : State) (q : RegQ) (v : Word) : (s.setRq q v).rB7 = s.rB7 := by cases q <;> rfl
@[simp] theorem State.setRq_iff1 (s : State) (q : RegQ) (v : Word) : (s.setRq q v).iff1 = s.iff1 := by cases q <;> rfl
@[simp] theorem State.setRq_iff2 (s : State) (q : RegQ) (v : Word) : (s.setRq q v).iff2 = s.iff2 := by cases q <;> rfl
@[simp] theorem State.setRq_im (s : State) (q : RegQ) (v : Word) : (s.setRq q v).im = s.im := by cases q <;> rfl
@[simp] theorem State.setRq_halt (s : State) (q : RegQ) (v : Word) : (s.setRq q v).halt = s.halt := by cases q <;> rfl
@[simp] theorem State.setRq_intDefer (s : State) (q : RegQ) (v : Word) : (s.setRq q v).intDefer = s.intDefer := by cases q <;> rfl
@[simp] theorem State.setRq_xyMode (s : State) (q : RegQ) (v : Word) : (s.setRq q v).xyMode = s.xyMode := by cases q <;> rfl
@[simp] theorem State.setRq_cost (s : State) (q : RegQ) (v : Word) : (s.setRq q v).cost = s.cost := by cases q <;> rfl
@[simp] theorem State.setRq_toShared (s : State) (q : RegQ) (v : Word) : (s.setRq q v).toShared = s.toShared := by cases q <;> rfl

/-! ### `State.setXy`: the fields it never writes -/

@[simp] theorem State.setXy_a (s : State) (x : Index) (v : Word) : (s.setXy x v).a = s.a := by cases x <;> rfl
@[simp] theorem State.setXy_f (s : State) (x : Index) (v : Word) : (s.setXy x v).f = s.f := by cases x <;> rfl
@[simp] theorem State.setXy_b (s : State) (x : Index) (v : Word) : (s.setXy x v).b = s.b := by cases x <;> rfl
@[simp] theorem State.setXy_c (s : State) (x : Index) (v : Word) : (s.setXy x v).c = s.c := by cases x <;> rfl
@[simp] theorem State.setXy_d (s : State) (x : Index) (v : Word) : (s.setXy x v).d = s.d := by cases x <;> rfl
@[simp] theorem State.setXy_e (s : State) (x : Index) (v : Word) : (s.setXy x v).e = s.e := by cases x <;> rfl
@[simp] theorem State.setXy_h (s : State) (x : Index) (v : Word) : (s.setXy x v).h = s.h := by cases x <;> rfl
@[simp] theorem State.setXy_l (s : State) (x : Index) (v : Word) : (s.setXy x v).l = s.l := by cases x <;> rfl
@[simp] theorem State.setXy_af2 (s : State) (x : Index) (v : Word) : (s.setXy x v).af2 = s.af2 := by cases x <;> rfl
@[simp] theorem State.setXy_bc2 (s : State) (x : Index) (v : Word) : (s.setXy x v).bc2 = s.bc2 := by cases x <;> rfl
@[simp] theorem State.setXy_de2 (s : State) (x : Index) (v : Word) : (s.setXy x v).de2 = s.de2 := by cases x <;> rfl
@[simp] theorem State.setXy_hl2 (s : State) (x : Index) (v : Word) : (s.setXy x v).hl2 = s.hl2 := by cases x <;> rfl
@[simp] theorem State.setXy_sp (s : State) (x : Index) (v : Word) : (s.setXy x v).sp = s.sp := by cases x <;> rfl
@[simp] theorem State.setXy_pc (s : State) (x : Index) (v : Word) : (s.setXy x v).pc = s.pc := by cases x <;> rfl
@[simp] theorem State.setXy_prepc (s : State) (x : Index) (v : Word) : (s.setXy x v).prepc = s.prepc := by cases x <;> rfl
@[simp] theorem State.setXy_i (s : State) (x : Index) (v : Word) : (s.setXy x v).i = s.i := by cases x <;> rfl
@[simp] theorem State.setXy_rCount (s : State) (x : Index) (v : Word) : (s.setXy x v).rCount = s.rCount := by cases x <;> rfl
@[simp] theorem State.setXy_rB7 (s : State) (x : Index) (v : Word) : (s.setXy x v).rB7 = s.rB7 := by cases x <;> rfl
@[simp] theorem State.setXy_iff1 (s : State) (x : Index) (v : Word) : (s.setXy x v).iff1 = s.iff1 := by cases x <;> rfl
@[simp] theorem State.setXy_iff2 (s : State) (x : Index) (v : Word) : (s.setXy x v).iff2 = s.iff2 := by cases x <;> rfl
@[simp] theorem State.setXy_im (s : State) (x : Index) (v : Word) : (s.setXy x v).im = s.im := by cases x <;> rfl
@[simp] theorem State.setXy_halt (s : State) (x : Index) (v : Word) : (s.setXy x v).halt = s.halt := by cases x <;> rfl
@[simp] theorem State.setXy_intDefer (s : State) (x : Index) (v : Word) : (s.setXy x v).intDefer = s.intDefer := by cases x <;> rfl
@[simp] theorem State.setXy_xyMode (s : State) (x : Index) (v : Word) : (s.setXy x v).xyMode = s.xyMode := by cases x <;> rfl
@[simp] theorem State.setXy_cost (s : State) (x : Index) (v : Word) : (s.setXy x v).cost = s.cost := by cases x <;> rfl
@[simp] theorem State.setXy_toShared (s : State) (x : Index) (v : Word) : (s.setXy x v).toShared = s.toShared := by cases x <;> rfl

/-! ### `State.setHalf`: the fields it never writes -/

@[simp] theorem State.setHalf_a (s : State) (x : Index) (k : Half) (v : Byte) : (s.setHalf x k v).a = s.a := by cases x <;> cases k <;> rfl
@[simp] theorem State.setHalf_f (s : State) (x : Index) (k : Half) (v : Byte) : (s.setHalf x k v).f = s.f := by cases x <;> cases k <;> rfl
@[simp] theorem State.setHalf_b (s : State) (x : Index) (k : Half) (v : Byte) : (s.setHalf x k v).b = s.b := by cases x <;> cases k <;> rfl
@[simp] theorem State.setHalf_c (s : State) (x : Index) (k : Half) (v : Byte) : (s.setHalf x k v).c = s.c := by cases x <;> cases k <;> rfl
@[simp] theorem State.setHalf_d (s : State) (x : Index) (k : Half) (v : Byte) : (s.setHalf x k v).d = s.d := by cases x <;> cases k <;> rfl
@[simp] theorem State.setHalf_e (s : State) (x : Index) (k : Half) (v : Byte) : (s.setHalf x k v).e = s.e := by cases x <;> cases k <;> rfl
@[simp] theorem State.setHalf_h (s : State) (x : Index) (k : Half) (v : Byte) : (s.setHalf x k v).h = s.h := by cases x <;> cases k <;> rfl
@[simp] theorem State.setHalf_l (s : State) (x : Index) (k : Half) (v : Byte) : (s.setHalf x k v).l = s.l := by cases x <;> cases k <;> rfl
@[simp] theorem State.setHalf_af2 (s : State) (x : Index) (k : Half) (v : Byte) : (s.setHalf x k v).af2 = s.af2 := by cases x <;> cases k <;> rfl
@[simp] theorem State.setHalf_bc2 (s : State) (x : Index) (k : Half) (v : Byte) : (s.setHalf x k v).bc2 = s.bc2 := by cases x <;> cases k <;> rfl
@[simp] theorem State.setHalf_de2 (s : State) (x : Index) (k : Half) (v : Byte) : (s.setHalf x k v).de2 = s.de2 := by cases x <;> cases k <;> rfl
@[simp] theorem State.setHalf_hl2 (s : State) (x : Index) (k : Half) (v : Byte) : (s.setHalf x k v).hl2 = s.hl2 := by cases x <;> cases k <;> rfl
@[simp] theorem State.setHalf_sp (s : State) (x : Index) (k : Half) (v : Byte) : (s.setHalf x k v).sp = s.sp := by cases x <;> cases k <;> rfl
@[simp] theorem State.setHalf_pc (s : State) (x : Index) (k : Half) (v : Byte) : (s.setHalf x k v).pc = s.pc := by cases x <;> cases k <;> rfl
@[simp] theorem State.setHalf_prepc (s : State) (x : Index) (k : Half) (v : Byte) : (s.setHalf x k v).prepc = s.prepc := by cases x <;> cases k <;> rfl
@[simp] theorem State.setHalf_i (s : State) (x : Index) (k : Half) (v : Byte) : (s.setHalf x k v).i = s.i := by cases x <;> cases k <;> rfl
@[simp] theorem State.setHalf_rCount (s : State) (x : Index) (k : Half) (v : Byte) : (s.setHalf x k v).rCount = s.rCount := by cases x <;> cases k <;> rfl
@[simp] theorem State.setHalf_rB7 (s : State) (x : Index) (k : Half) (v : Byte) : (s.setHalf x k v).rB7 = s.rB7 := by cases x <;> cases k <;> rfl
@[simp] theorem State.setHalf_iff1 (s : State) (x : Index) (k : Half) (v : Byte) : (s.setHalf x k v).iff1 = s.iff1 := by cases x <;> cases k <;> rfl
@[simp] theorem State.setHalf_iff2 (s : State) (x : Index) (k : Half) (v : Byte) : (s.setHalf x k v).iff2 = s.iff2 := by cases x <;> cases k <;> rfl
@[simp] theorem State.setHalf_im (s : State) (x : Index) (k : Half) (v : Byte) : (s.setHalf x k v).im = s.im := by cases x <;> cases k <;> rfl
@[simp] theorem State.setHalf_halt (s : State) (x : Index) (k : Half) (v : Byte) : (s.setHalf x k v).halt = s.halt := by cases x <;> cases k <;> rfl
@[simp] theorem State.setHalf_intDefer (s : State) (x : Index) (k : Half) (v : Byte) : (s.setHalf x k v).intDefer = s.intDefer := by cases x <;> cases k <;> rfl
@[simp] theorem State.setHalf_xyMode (s : State) (x : Index) (k : Half) (v : Byte) : (s.setHalf x k v).xyMode = s.xyMode := by cases x <;> cases k <;> rfl
@[simp] theorem State.setHalf_cost (s : State) (x : Index) (k : Half) (v : Byte) : (s.setHalf x k v).cost = s.cost := by cases x <;> cases k <;> rfl
@[simp] theorem State.setHalf_toShared (s : State) (x : Index) (k : Half) (v : Byte) : (s.setHalf x k v).toShared = s.toShared := by cases x <;> cases k <;> rfl

/-! ### `State.setIr8`: the fields it never writes -/

@[simp] theorem State.setIr8_f (s : State) (x : Index) (p : IReg8) (v : Byte) : (s.setIr8 x p v).f = s.f := by cases x <;> cases p <;> rfl
@[simp] theorem State.setIr8_h (s : State) (x : Index) (p : IReg8) (v : Byte) : (s.setIr8 x p v).h = s.h := by cases x <;> cases p <;> rfl
@[simp] theorem State.setIr8_l (s : State) (x : Index) (p : IReg8) (v : Byte) : (s.setIr8 x p v).l = s.l := by cases x <;> cases p <;> rfl
@[simp] theorem State.setIr8_af2 (s : State) (x : Index) (p : IReg8) (v : Byte) : (s.setIr8 x p v).af2 = s.af2 := by cases x <;> cases p <;> rfl
@[simp] theorem State.setIr8_bc2 (s : State) (x : Index) (p : IReg8) (v : Byte) : (s.setIr8 x p v).bc2 = s.bc2 := by cases x <;> cases p <;> rfl
@[simp] theorem State.setIr8_de2 (s : State) (x : Index) (p : IReg8) (v : Byte) : (s.setIr8 x p v).de2 = s.de2 := by cases x <;> cases p <;> rfl
@[simp] theorem State.setIr8_hl2 (s : State) (x : Index) (p : IReg8) (v : Byte) : (s.setIr8 x p v).hl2 = s.hl2 := by cases x <;> cases p <;> rfl
@[simp] theorem State.setIr8_sp (s : State) (x : Index) (p : IReg8) (v : Byte) : (s.setIr8 x p v).sp = s.sp := by cases x <;> cases p <;> rfl
@[simp] theorem State.setIr8_pc (s : State) (x : Index) (p : IReg8) (v : Byte) : (s.setIr8 x p v).pc = s.pc := by cases x <;> cases p <;> rfl
@[simp] theorem State.setIr8_prepc (s : State) (x : Index) (p : IReg8) (v : Byte) : (s.setIr8 x p v).prepc = s.prepc := by cases x <;> cases p <;> rfl
@[simp] theorem State.setIr8_i (s : State) (x : Index) (p : IReg8) (v : Byte) : (s.setIr8 x p v).i = s.i := by cases x <;> cases p <;> rfl
@[simp] theorem State.setIr8_rCount (s : State) (x : Index) (p : IReg8) (v : Byte) : (s.setIr8 x p v).rCount = s.rCount := by cases x <;> cases p <;> rfl
@[simp] theorem State.setIr8_rB7 (s : State) (x : Index) (p : IReg8) (v : Byte) : (s.setIr8 x p v).rB7 = s.rB7 := by cases x <;> cases p <;> rfl
@[simp] theorem State.setIr8_iff1 (s : State) (x : Index) (p : IReg8) (v : Byte) : (s.setIr8 x p v).iff1 = s.iff1 := by cases x <;> cases p <;> rfl
@[simp] theorem State.setIr8_iff2 (s : State) (x : Index) (p : IReg8) (v : Byte) : (s.setIr8 x p v).iff2 = s.iff2 := by cases x <;> cases p <;> rfl
@[simp] theorem State.setIr8_im (s : State) (x : Index) (p : IReg8) (v : Byte) : (s.setIr8 x p v).im = s.im := by cases x <;> cases p <;> rfl
@[simp] theorem State.setIr8_halt (s : State) (x : Index) (p : IReg8) (v : Byte) : (s.setIr8 x p v).halt = s.halt := by cases x <;> cases p <;> rfl
@[simp] theorem State.setIr8_intDefer (s : State) (x : Index) (p : IReg8) (v : Byte) : (s.setIr8 x p v).intDefer = s.intDefer := by cases x <;> cases p <;> rfl
@[simp] theorem State.setIr8_xyMode (s : State) (x : Index) (p : IReg8) (v : Byte) : (s.setIr8 x p v).xyMode = s.xyMode := by cases x <;> cases p <;> rfl
@[simp] theorem State.setIr8_cost (s : State) (x : Index) (p : IReg8) (v : Byte) : (s.setIr8 x p v).cost = s.cost := by cases x <;> cases p <;> rfl
@[simp] theorem State.setIr8_toShared (s : State) (x : Index) (p : IReg8) (v : Byte) : (s.setIr8 x p v).toShared = s.toShared := by cases x <;> cases p <;> rfl

/-! ### `Shared.poke` -/

@[simp] theorem Shared.poke_mem (h : Shared) (a : Word) (v : Byte) : (h.poke a v).mem = h.mem.write a.toNat v := rfl
@[simp] theorem Shared.poke_nmiLine (h : Shared) (a : Word) (v : Byte) : (h.poke a v).nmiLine = h.nmiLine := rfl
@[simp] theorem Shared.poke_nmiPending (h : Shared) (a : Word) (v : Byte) : (h.poke a v).nmiPending = h.nmiPending := rfl
@[simp] theorem Shared.poke_irqLine (h : Shared) (a : Word) (v : Byte) : (h.poke a v).irqLine = h.irqLine := rfl
@[simp] theorem Shared.poke_intState (h : Shared) (a : Word) (v : Byte) : (h.poke a v).intState = h.intState := rfl
@[simp] theorem Shared.poke_requestDev (h : Shared) (a : Word) (v : Byte) : (h.poke a v).requestDev = h.requestDev := rfl
@[simp] theorem Shared.poke_serviceDev (h : Shared) (a : Word) (v : Byte) : (h.poke a v).serviceDev = h.serviceDev := rfl
@[simp] theorem Shared.poke_host (h : Shared) (a : Word) (v : Byte) : (h.poke a v).host = h.host := rfl
@[simp] theorem Shared.poke_calls (h : Shared) (a : Word) (v : Byte) : (h.poke a v).calls = h.calls := rfl
@[simp] theorem Shared.poke_bus (h : Shared) (a : Word) (v : Byte) : (h.poke a v).bus = h.bus := rfl

/-! ### `Shared.recompute` -/

@[simp] theorem Shared.recompute_mem (h : Shared) : h.recompute.mem = h.mem := rfl
@[simp] theorem Shared.recompute_nmiLine (h : Shared) : h.recompute.nmiLine = h.nmiLine := rfl
@[simp] theorem Shared.recompute_nmiPending (h : Shared) : h.recompute.nmiPending = h.nmiPending := rfl
@[simp] theorem Shared.recompute_irqLine (h : Shared) : h.recompute.irqLine = h.irqLine := rfl
@[simp] theorem Shared.recompute_intState (h : Shared) : h.recompute.intState = h.intState := rfl
@[simp] theorem Shared.recompute_requestDev (h : Shared) : h.recompute.requestDev = firstGrant 0 h.intState := rfl
@[simp] theorem Shared.recompute_serviceDev (h : Shared) : h.recompute.serviceDev = firstIeo 0 h.intState := rfl
@[simp] theorem Shared.recompute_host (h : Shared) : h.recompute.host = h.host := rfl
@[simp] theorem Shared.recompute_calls (h : Shared) : h.recompute.calls = h.calls := rfl
@[simp] theorem Shared.recompute_bus (h : Shared) : h.recompute.bus = h.bus := rfl

end Sys2Proof.Machine
end

