-- ==== Sys2Proof/Laws/Operands.lean ====
section
/-! SUPPORT. Bytes and words, and the registers read after they are written (R30 to R35). -/

namespace Sys2Proof

@[simp] theorem hiByte_wordOf (hi lo : Byte) : hiByte (wordOf hi lo) = hi := by
  apply BitVec.eq_of_getLsbD_eq
  intro k hk
  simp only [hiByte, wordOf, BitVec.getLsbD_extractLsb', BitVec.getLsbD_append]
  simp [hk]

@[simp] theorem loByte_wordOf (hi lo : Byte) : loByte (wordOf hi lo) = lo := by
  apply BitVec.eq_of_getLsbD_eq
  intro k hk
  simp only [loByte, wordOf, BitVec.getLsbD_extractLsb', BitVec.getLsbD_append]
  simp [hk]

@[simp] theorem wordOf_hiByte_loByte (w : Word) : wordOf (hiByte w) (loByte w) = w := by
  apply BitVec.eq_of_getLsbD_eq
  intro i hi
  simp only [hiByte, loByte, wordOf, BitVec.getLsbD_append, BitVec.getLsbD_extractLsb']
  by_cases h : i < 8
  · simp [h]
  · have : i - 8 < 8 := by omega
    have e : 8 + (i - 8) = i := by omega
    simp [h, this, e]

theorem wordOf_toNat (hi lo : Byte) : (wordOf hi lo).toNat = hi.toNat * 256 + lo.toNat := by
  rw [wordOf, BitVec.toNat_append, ← Nat.shiftLeft_add_eq_or_of_lt lo.isLt, Nat.shiftLeft_eq]

namespace Machine

/-! ### 8-bit registers and pairs -/

@[simp] theorem State.r8_setR8_same (s : State) (r : Reg8) (v : Byte) : (s.setR8 r v).r8 r = v := by
  cases r <;> rfl

theorem State.r8_setR8_other (s : State) {r q : Reg8} (v : Byte) (h : q ≠ r) : (s.setR8 r v).r8 q = s.r8 q := by
  cases r <;> cases q <;> first | rfl | exact absurd rfl h

@[simp] theorem State.bc_setBc (s : State) (v : Word) : (s.setBc v).bc = v := wordOf_hiByte_loByte v

@[simp] theorem State.de_setDe (s : State) (v : Word) : (s.setDe v).de = v := wordOf_hiByte_loByte v

@[simp] theorem State.hl_setHl (s : State) (v : Word) : (s.setHl v).hl = v := wordOf_hiByte_loByte v

@[simp] theorem State.af_setAf (s : State) (v : Word) : (s.setAf v).af = v := wordOf_hiByte_loByte v

@[simp] theorem State.rp_setRp_same (s : State) (p : RegP) (v : Word) : (s.setRp p v).rp p = v := by
  cases p <;> first | rfl | exact wordOf_hiByte_loByte v

theorem State.rp_setRp_other (s : State) {p q : RegP} (v : Word) (h : q ≠ p) : (s.setRp p v).rp q = s.rp q := by
  cases p <;> cases q <;> first | rfl | exact absurd rfl h

@[simp] theorem State.rq_setRq_same (s : State) (p : RegQ) (v : Word) : (s.setRq p v).rq p = v := by
  cases p <;> exact wordOf_hiByte_loByte v

theorem State.rq_setRq_other (s : State) {p q : RegQ} (v : Word) (h : q ≠ p) : (s.setRq p v).rq q = s.rq q := by
  cases p <;> cases q <;> first | rfl | exact absurd rfl h

/-! ### Index registers -/

@[simp] theorem State.xy_setXy_same (s : State) (x : Index) (v : Word) : (s.setXy x v).xy x = v := by
  cases x <;> rfl

theorem State.xy_setXy_other (s : State) {x y : Index} (v : Word) (h : y ≠ x) : (s.setXy x v).xy y = s.xy y := by
  cases x <;> cases y <;> first | rfl | exact absurd rfl h

@[simp] theorem State.half_setHalf_same (s : State) (x : Index) (k : Half) (v : Byte) :
    (s.setHalf x k v).half x k = v := by
  cases k <;> simp [State.setHalf, State.half]

theorem State.half_setHalf_other (s : State) (x : Index) {k j : Half} (v : Byte) (h : j ≠ k) :
    (s.setHalf x k v).half x j = s.half x j := by
  cases k <;> cases j <;> simp_all [State.setHalf, State.half]

theorem State.xy_setHalf_other (s : State) {x y : Index} (k : Half) (v : Byte) (h : y ≠ x) :
    (s.setHalf x k v).xy y = s.xy y := by
  cases k <;> exact State.xy_setXy_other s _ h

@[simp] theorem State.ir8_setIr8_same (s : State) (x : Index) (p : IReg8) (v : Byte) : (s.setIr8 x p v).ir8 x p = v := by
  cases p with
  | xh => exact State.half_setHalf_same s x .high v
  | xl => exact State.half_setHalf_same s x .low v
  | b => rfl
  | c => rfl
  | d => rfl
  | e => rfl
  | a => rfl

/-! ### Operands after other updates -/

@[simp] theorem State.bc_charge (s : State) (n : Nat) : (s.charge n).bc = s.bc := rfl

@[simp] theorem State.de_charge (s : State) (n : Nat) : (s.charge n).de = s.de := rfl

@[simp] theorem State.hl_charge (s : State) (n : Nat) : (s.charge n).hl = s.hl := rfl

@[simp] theorem State.xy_charge (s : State) (n : Nat) (x : Index) : (s.charge n).xy x = s.xy x := by cases x <;> rfl

@[simp] theorem State.half_charge (s : State) (n : Nat) (x : Index) (k : Half) : (s.charge n).half x k = s.half x k := by
  cases k <;> cases x <;> rfl

@[simp] theorem State.r8_charge (s : State) (n : Nat) (r : Reg8) : (s.charge n).r8 r = s.r8 r := by cases r <;> rfl

@[simp] theorem State.rp_charge (s : State) (n : Nat) (p : RegP) : (s.charge n).rp p = s.rp p := by cases p <;> rfl

@[simp] theorem State.ir8_charge (s : State) (n : Nat) (x : Index) (p : IReg8) : (s.charge n).ir8 x p = s.ir8 x p := by
  cases p <;> cases x <;> rfl

@[simp] theorem State.bc_perform (s : State) (ev : BusEvent) : (s.perform ev).bc = s.bc := rfl

@[simp] theorem State.de_perform (s : State) (ev : BusEvent) : (s.perform ev).de = s.de := rfl

@[simp] theorem State.hl_perform (s : State) (ev : BusEvent) : (s.perform ev).hl = s.hl := rfl

@[simp] theorem State.xy_perform (s : State) (ev : BusEvent) (x : Index) : (s.perform ev).xy x = s.xy x := by cases x <;> rfl

@[simp] theorem State.half_perform (s : State) (ev : BusEvent) (x : Index) (k : Half) : (s.perform ev).half x k = s.half x k := by
  cases k <;> cases x <;> rfl

@[simp] theorem State.r8_perform (s : State) (ev : BusEvent) (r : Reg8) : (s.perform ev).r8 r = s.r8 r := by cases r <;> rfl

@[simp] theorem State.rp_perform (s : State) (ev : BusEvent) (p : RegP) : (s.perform ev).rp p = s.rp p := by cases p <;> rfl

@[simp] theorem State.ir8_perform (s : State) (ev : BusEvent) (x : Index) (p : IReg8) : (s.perform ev).ir8 x p = s.ir8 x p := by
  cases p <;> cases x <;> rfl

@[simp] theorem State.bc_setF (s : State) (f : Byte) : (s.setF f).bc = s.bc := rfl

@[simp] theorem State.de_setF (s : State) (f : Byte) : (s.setF f).de = s.de := rfl

@[simp] theorem State.hl_setF (s : State) (f : Byte) : (s.setF f).hl = s.hl := rfl

@[simp] theorem State.xy_setF (s : State) (f : Byte) (x : Index) : (s.setF f).xy x = s.xy x := by cases x <;> rfl

@[simp] theorem State.half_setF (s : State) (f : Byte) (x : Index) (k : Half) : (s.setF f).half x k = s.half x k := by
  cases k <;> cases x <;> rfl

@[simp] theorem State.r8_setF (s : State) (f : Byte) (r : Reg8) : (s.setF f).r8 r = s.r8 r := by cases r <;> rfl

@[simp] theorem State.rp_setF (s : State) (f : Byte) (p : RegP) : (s.setF f).rp p = s.rp p := by cases p <;> rfl

@[simp] theorem State.ir8_setF (s : State) (f : Byte) (x : Index) (p : IReg8) : (s.setF f).ir8 x p = s.ir8 x p := by
  cases p <;> cases x <;> rfl

@[simp] theorem State.bc_setPc (s : State) (v : Word) : (s.setPc v).bc = s.bc := rfl

@[simp] theorem State.de_setPc (s : State) (v : Word) : (s.setPc v).de = s.de := rfl

@[simp] theorem State.hl_setPc (s : State) (v : Word) : (s.setPc v).hl = s.hl := rfl

@[simp] theorem State.xy_setPc (s : State) (v : Word) (x : Index) : (s.setPc v).xy x = s.xy x := by cases x <;> rfl

@[simp] theorem State.half_setPc (s : State) (v : Word) (x : Index) (k : Half) : (s.setPc v).half x k = s.half x k := by
  cases k <;> cases x <;> rfl

@[simp] theorem State.r8_setPc (s : State) (v : Word) (r : Reg8) : (s.setPc v).r8 r = s.r8 r := by cases r <;> rfl

@[simp] theorem State.rp_setPc (s : State) (v : Word) (p : RegP) : (s.setPc v).rp p = s.rp p := by cases p <;> rfl

@[simp] theorem State.ir8_setPc (s : State) (v : Word) (x : Index) (p : IReg8) : (s.setPc v).ir8 x p = s.ir8 x p := by
  cases p <;> cases x <;> rfl

end Machine

end Sys2Proof
end

