-- ==== Sys2Proof/Laws/Ops.lean ====
section
/-! SUPPORT. What each shared operation does, said once: the value it gives and the state after it. -/

namespace Sys2Proof.Machine

/-! ### The host's part in an operation -/

/-- What no act of the host touches: the rest of its list, the count and record of operations, and `N_DEV`. -/
def Shared.SameCourse (g h : Shared) : Prop :=
  g.host = h.host ∧ g.calls = h.calls ∧ g.bus = h.bus ∧ g.intState.length = h.intState.length

theorem Shared.reportState_course (d : Nat) (v : Byte) (h : Shared) : (h.reportState d v).SameCourse h := by
  unfold Shared.reportState
  split
  · exact ⟨rfl, rfl, rfl, rfl⟩
  · split
    · exact ⟨rfl, rfl, rfl, rfl⟩
    · exact ⟨rfl, rfl, rfl, List.length_set⟩

theorem Shared.setNmiLine_course (level : Bool) (h : Shared) : (h.setNmiLine level).SameCourse h := by
  unfold Shared.setNmiLine
  split <;> exact ⟨rfl, rfl, rfl, rfl⟩

/-- What a setting of the IRQ line can do: record the level, and take a report. -/
theorem Shared.setIrqLine_cases {line : Nat} {level : Bool} {report : Option (Nat × Byte)} {g h : Shared}
    (e : h.setIrqLine line level report = some g) :
    line = 0 ∧
      (g = { h with irqLine := level } ∨
        ∃ d v, report = some (d, v) ∧ level = true ∧ h.nDev ≠ 0 ∧ g = { h with irqLine := level }.reportState d v) := by
  unfold Shared.setIrqLine at e
  split at e
  · cases e
  · rename_i hl
    refine ⟨Decidable.not_not.mp hl, ?_⟩
    split at e
    · exact .inl (Option.some.inj e).symm
    · rename_i hc
      simp only [Bool.or_eq_true, decide_eq_true_eq, Bool.not_eq_true', not_or, Bool.not_eq_false] at hc
      split at e
      · rename_i d v
        exact .inr ⟨d, v, rfl, hc.2, hc.1, (Option.some.inj e).symm⟩
      · exact .inl (Option.some.inj e).symm

theorem Shared.act_course (h : Shared) (x : HostAct) : (h.act x).SameCourse h := by
  cases x with
  | setMemory a v => exact ⟨rfl, rfl, rfl, rfl⟩
  | setNmiLine level => exact Shared.setNmiLine_course level h
  | setIrqLine line level report =>
    simp only [Shared.act]
    cases e : h.setIrqLine line level report with
    | none => exact ⟨rfl, rfl, rfl, rfl⟩
    | some g =>
      obtain ⟨-, rfl | ⟨d, v, -, -, -, rfl⟩⟩ := Shared.setIrqLine_cases e
      · exact ⟨rfl, rfl, rfl, rfl⟩
      · exact Shared.reportState_course d v { h with irqLine := level }

theorem Shared.acts_course (xs : List HostAct) (h : Shared) : (xs.foldl Shared.act h).SameCourse h := by
  induction xs generalizing h with
  | nil => exact ⟨rfl, rfl, rfl, rfl⟩
  | cons x xs ih =>
    obtain ⟨h1, h2, h3, h4⟩ := ih (h.act x)
    obtain ⟨k1, k2, k3, k4⟩ := Shared.act_course h x
    exact ⟨h1.trans k1, h2.trans k2, h3.trans k3, h4.trans k4⟩

@[simp] theorem Shared.perform_host (h : Shared) (ev : BusEvent) : (h.perform ev).host = h.host.tail :=
  (Shared.acts_course _ _).1

@[simp] theorem Shared.perform_calls (h : Shared) (ev : BusEvent) : (h.perform ev).calls = h.calls + 1 :=
  (Shared.acts_course _ _).2.1

@[simp] theorem Shared.perform_bus (h : Shared) (ev : BusEvent) : (h.perform ev).bus = h.bus ++ [ev] :=
  (Shared.acts_course _ _).2.2.1

@[simp] theorem Shared.perform_nDev (h : Shared) (ev : BusEvent) : (h.perform ev).nDev = h.nDev :=
  (Shared.acts_course _ _).2.2.2

/-- Past the end of its list the host does nothing but answer. -/
theorem Shared.perform_of_host_nil {h : Shared} (e : h.host = []) (ev : BusEvent) :
    h.perform ev =
      { h with
        mem := match ev with
          | .memWrite a v => h.mem.write a.toNat v
          | _ => h.mem
        calls := h.calls + 1
        bus := h.bus ++ [ev] } := by
  simp only [Shared.perform, Shared.callback, e]
  rfl

/-- A memory that the host does not change itself reads, after an operation, as the operation leaves it. -/
theorem Shared.peek_acts {xs : List HostAct} (k : ∀ x, x ∈ xs → ∀ a v, x ≠ .setMemory a v) (h : Shared) (b : Word) :
    (xs.foldl Shared.act h).peek b = h.peek b := by
  induction xs generalizing h with
  | nil => rfl
  | cons x xs ih =>
    rw [List.foldl_cons, ih fun y hy => k y (List.mem_cons_of_mem x hy)]
    refine Shared.peek_congr ?_ b
    cases x with
    | setMemory a v => exact absurd rfl (k _ List.mem_cons_self a v)
    | setNmiLine level => exact Shared.setNmiLine_mem level h
    | setIrqLine line level report =>
      simp only [Shared.act]
      cases e : h.setIrqLine line level report with
      | none => rfl
      | some g => exact Shared.setIrqLine_mem e

/-! ### Data memory and the stack -/

theorem memRead_eq (a : Word) (s : State) : memRead a s = (s.hear a, s.perform (.memRead .data a (s.hear a))) := rfl

theorem memRead16_eq (a : Word) (s : State) :
    memRead16 a s = (wordOf (memRead (a + 1) (memRead a s).2).1 (memRead a s).1, (memRead (a + 1) (memRead a s).2).2) := rfl

theorem pop16_eq (s : State) :
    pop16 s = ((memRead16 s.sp s).1, { (memRead16 s.sp s).2 with sp := s.sp + 2 }) := rfl

theorem push16_eq (v : Word) (s : State) :
    push16 v s =
      { (s.perform (.memWrite (s.sp - 1) (hiByte v))).perform (.memWrite (s.sp - 2) (loByte v)) with sp := s.sp - 2 } := rfl

theorem memWrite16_eq (a v : Word) (s : State) :
    memWrite16 a v s = (s.perform (.memWrite a (loByte v))).perform (.memWrite (a + 1) (hiByte v)) := rfl

/-- A byte written reads back at once, and every other address reads as before, where the host changes no memory inside
the write (R112). -/
theorem peek_memWrite {s : State} (k : ∀ x, x ∈ s.callback.acts → ∀ a v, x ≠ .setMemory a v) (a : Word) (v : Byte) (b : Word) :
    (memWrite a v s).peek b = if a = b then v else s.peek b :=
  (Shared.peek_acts k _ b).trans (Shared.peek_poke s.toShared a v b)

/-! ### Ports -/

/-- A port read gives what is heard and changes nothing but what is shared with the host. -/
theorem portRead_eq (p : Word) (s : State) :
    portRead p s = (s.hearPort p, { s with toShared := s.toShared.perform (.portRead p (s.hearPort p)) }) := rfl

/-! ### Instruction fetch -/

theorem fetchOpcodes_one (s : State) : fetchOpcodes 1 s = fetchOpcode s := rfl

theorem fetchOpcodes_two (s : State) : fetchOpcodes 2 s = fetchOpcode (fetchOpcode s) := rfl

theorem fetchArgs_zero (s : State) : fetchArgs 0 s = s := rfl

theorem fetchArgs_one (s : State) : fetchArgs 1 s = fetchArg s := rfl

theorem fetchArgs_two (s : State) : fetchArgs 2 s = fetchArg (fetchArg s) := rfl

theorem fetchOpcodes_frame (n : Nat) (s : State) :
    fetchOpcodes n s =
      { s with
        toShared := (fetchOpcodes n s).toShared
        pc := s.pc + BitVec.ofNat 16 n
        rCount := s.rCount + BitVec.ofNat 7 n } := by
  induction n generalizing s with
  | zero => simp [fetchOpcodes]
  | succ n ih =>
    rw [fetchOpcodes, ih]
    simp only [fetchOpcode, State.perform]
    congr 1
    · rw [BitVec.add_assoc, BitVec.add_comm 1, ← BitVec.ofNat_add_ofNat]
      rfl
    · rw [BitVec.add_assoc, BitVec.add_comm 1, ← BitVec.ofNat_add_ofNat]
      rfl

theorem fetchArgs_frame (n : Nat) (s : State) :
    fetchArgs n s = { s with toShared := (fetchArgs n s).toShared, pc := s.pc + BitVec.ofNat 16 n } := by
  induction n generalizing s with
  | zero => simp [fetchArgs]
  | succ n ih =>
    rw [fetchArgs, ih]
    simp only [fetchArg, State.perform]
    congr 1
    rw [BitVec.add_assoc, BitVec.add_comm 1, ← BitVec.ofNat_add_ofNat]
    rfl

/-! ### Taking an interrupt -/

theorem leaveHalt_eq (s : State) :
    leaveHalt s = { s with halt := false, pc := if s.halt then s.pc + 1 else s.pc } := by
  unfold leaveHalt
  split
  · rfl
  · rename_i h
    rw [← Bool.eq_false_iff.mpr h]

theorem enterHandler_eq (target : Word) (cost : Nat) (s : State) :
    enterHandler target cost s =
      { (s.perform (.memWrite (s.sp - 1) (hiByte s.pc))).perform (.memWrite (s.sp - 2) (loByte s.pc)) with
        pc := target
        sp := s.sp - 2
        cost := cost } := rfl

theorem returnFromHandler_eq (s : State) :
    returnFromHandler s =
      { (memRead16 s.sp s).2 with pc := (memRead16 s.sp s).1, sp := s.sp + 2, iff1 := s.iff2 } := rfl

/-- Which step is taken: the NMI first, then the maskable interrupt, then a halted cycle (R481). -/
theorem nonInstructionStep_nmi {s : State} (hd : s.intDefer = false) (h : s.nmiPending = true) :
    nonInstructionStep s = some (acceptNmi s) := by
  simp [nonInstructionStep, hd, h]

theorem nonInstructionStep_irq {s : State} (hd : s.intDefer = false) (hn : s.nmiPending = false) (hi : s.iff1 = true)
    (hr : s.irqRequested = true) : nonInstructionStep s = some (acceptIrq s) := by
  simp [nonInstructionStep, hd, hn, hi, hr]

theorem nonInstructionStep_deferred {s : State} (hd : s.intDefer = true) :
    nonInstructionStep s = if s.halt then some (haltedCycle s.endDefer) else none := by
  simp [nonInstructionStep, hd]

end Sys2Proof.Machine
end

