-- ==== Sys2Proof/Laws/Host.lean ====
section
/-! SUPPORT. The state after operations on the host: what they always leave alone, and what they leave alone for a host
that changes no memory, or calls no setter, from inside them. -/

namespace Sys2Proof.Machine

/-! ### Whatever the host does -/

theorem State.after_nil (s : State) : s.after [] = s := rfl

theorem State.after_cons (s : State) (ev : BusEvent) (evs : List BusEvent) :
    s.after (ev :: evs) = (s.perform ev).after evs := rfl

theorem State.after_append (s : State) (evs more : List BusEvent) : s.after (evs ++ more) = (s.after evs).after more :=
  List.foldl_append

/-- Operations on the host change nothing but what is shared with it, and what they make of that depends on it alone. -/
theorem State.after_eq (s : State) (evs : List BusEvent) :
    s.after evs = { s with toShared := evs.foldl Shared.perform s.toShared } := by
  induction evs generalizing s with
  | nil => rfl
  | cons ev evs ih => exact ih (s.perform ev)

theorem State.after_bus (s : State) (evs : List BusEvent) : (s.after evs).bus = s.bus ++ evs := by
  induction evs generalizing s with
  | nil => exact (List.append_nil _).symm
  | cons ev evs ih =>
    rw [State.after_cons, ih, State.perform_toShared, Shared.perform_bus, List.append_assoc]
    rfl

theorem State.after_host (s : State) (evs : List BusEvent) : (s.after evs).host = s.host.drop evs.length := by
  induction evs generalizing s with
  | nil => rfl
  | cons ev evs ih =>
    rw [State.after_cons, ih, State.perform_toShared, Shared.perform_host, List.drop_tail]
    rfl

theorem State.after_calls (s : State) (evs : List BusEvent) : (s.after evs).calls = s.calls + evs.length := by
  induction evs generalizing s with
  | nil => rfl
  | cons ev evs ih =>
    rw [State.after_cons, ih, State.perform_toShared, Shared.perform_calls, List.length_cons]
    omega

theorem State.after_nDev (s : State) (evs : List BusEvent) : (s.after evs).nDev = s.nDev := by
  induction evs generalizing s with
  | nil => rfl
  | cons ev evs ih => rw [State.after_cons, ih, State.perform_toShared, Shared.perform_nDev]

theorem State.wf_after {s : State} (evs : List BusEvent) (w : s.mem.wf = true) : (s.after evs).mem.wf = true := by
  induction evs generalizing s with
  | nil => exact w
  | cons ev evs ih => exact ih (s := s.perform ev) (Shared.wf_perform ev w)

/-- What the host does inside an operation is what it does between steps. -/
theorem hostDoes_eq (s : State) (x : HostAct) : hostDoes s x = { s with toShared := s.toShared.act x } := by
  cases x with
  | setMemory a v => rfl
  | setNmiLine level => rfl
  | setIrqLine line level report =>
    simp only [hostDoes, Shared.act, setIrqLine]
    cases Shared.setIrqLine line level report s.toShared <;> rfl

/-! ### A host that changes no memory -/

theorem callback_keepsMemory {s : State} (k : s.HostKeepsMemory) : ∀ x, x ∈ s.callback.acts → x.onMemory = false := by
  unfold Shared.callback
  cases e : s.host with
  | nil => exact fun x hx => nomatch hx
  | cons c cs => exact fun x hx => k c (e ▸ List.mem_cons_self) x hx

theorem perform_keepsMemory {s : State} (k : s.HostKeepsMemory) (ev : BusEvent) : (s.perform ev).HostKeepsMemory :=
  fun c hc => k c (List.mem_of_mem_tail (Shared.perform_host s.toShared ev ▸ hc))

theorem peek_perform {s : State} (k : s.HostKeepsMemory) (ev : BusEvent) (b : Word) :
    (s.perform ev).peek b = written [ev] b (s.peek b) := by
  refine (Shared.peek_acts (fun x hx a v e => ?_) _ b).trans ?_
  · subst e
    exact Bool.noConfusion (callback_keepsMemory k _ hx)
  · cases ev with
    | memWrite a v => exact Shared.peek_poke s.toShared a v b
    | _ => rfl

theorem written_append (evs more : List BusEvent) (b : Word) (old : Byte) :
    written (evs ++ more) b old = written more b (written evs b old) := by
  induction evs generalizing old with
  | nil => rfl
  | cons ev evs ih => cases ev <;> exact ih _

/-- Memory reads, after operations, as their writes leave it. -/
theorem peek_after {s : State} (k : s.HostKeepsMemory) (evs : List BusEvent) (b : Word) :
    (s.after evs).peek b = written evs b (s.peek b) := by
  induction evs generalizing s with
  | nil => rfl
  | cons ev evs ih =>
    rw [State.after_cons, ih (perform_keepsMemory k ev), peek_perform k]
    exact (written_append [ev] evs b (s.peek b)).symm

/-- A read hears what stands in a memory that the host neither changes nor hides. -/
theorem hear_of_plain {s : State} (k : s.PlainMemory) (a : Word) : s.hear a = s.peek a := by
  unfold Shared.hear Shared.callback
  cases e : s.host with
  | nil => rfl
  | cons c cs =>
    have hc : c.answer = none := k.2 c (e ▸ List.mem_cons_self)
    simp only [List.headD_cons, hc]

theorem perform_plain {s : State} (k : s.PlainMemory) (ev : BusEvent) : (s.perform ev).PlainMemory :=
  ⟨perform_keepsMemory k.1 ev, fun c hc => k.2 c (List.mem_of_mem_tail (Shared.perform_host s.toShared ev ▸ hc))⟩

/-! ### A host that calls no setter -/

theorem callback_keepsLines {s : State} (k : s.HostKeepsLines) : ∀ x, x ∈ s.callback.acts → x.onMemory = true := by
  unfold Shared.callback
  cases e : s.host with
  | nil => exact fun x hx => nomatch hx
  | cons c cs => exact fun x hx => k c (e ▸ List.mem_cons_self) x hx

theorem perform_keepsLines {s : State} (k : s.HostKeepsLines) (ev : BusEvent) : (s.perform ev).HostKeepsLines :=
  fun c hc => k c (List.mem_of_mem_tail (Shared.perform_host s.toShared ev ▸ hc))

theorem acts_onMemory {xs : List HostAct} (k : ∀ x, x ∈ xs → x.onMemory = true) (h : Shared) :
    xs.foldl Shared.act h = { h with mem := (xs.foldl Shared.act h).mem } := by
  induction xs generalizing h with
  | nil => rfl
  | cons x xs ih =>
    rw [List.foldl_cons, ih fun y hy => k y (List.mem_cons_of_mem x hy)]
    cases x with
    | setMemory a v => rfl
    | setNmiLine level => exact Bool.noConfusion (k _ List.mem_cons_self)
    | setIrqLine line level report => exact Bool.noConfusion (k _ List.mem_cons_self)

/-- The lines, the latch and the controller are, after operations, as they were. -/
theorem after_of_keepsLines {s : State} (k : s.HostKeepsLines) (evs : List BusEvent) :
    s.after evs =
      { s with
        mem := (s.after evs).mem
        host := (s.after evs).host
        calls := (s.after evs).calls
        bus := (s.after evs).bus } := by
  induction evs generalizing s with
  | nil => rfl
  | cons ev evs ih =>
    rw [State.after_cons, ih (perform_keepsLines k ev)]
    simp only [State.perform, Shared.perform]
    rw [acts_onMemory (callback_keepsLines k)]

end Sys2Proof.Machine
end

