-- ==== Sys2Proof/Laws/PerInstr.lean ====
section
/-! SUPPORT. For every instruction: the bytes of its own step are as many as its format fetches, at least one and at
most four, so that a decoding of them consumes exactly these. -/

namespace Sys2Proof

/-- A step fetches one to four bytes. -/
theorem Instr.stepLength_bounds (i : Instr) : 1 ≤ i.stepLength ∧ i.stepLength ≤ 4 := by
  unfold Instr.stepLength
  cases i.format <;> decide

end Sys2Proof

namespace Sys2Proof.Laws.StepLength

/-- The encoder gives as many bytes as the format of R131 fetches. -/
def Statement (i : Instr) : Prop := i.wf = true → i.encodeOp.length = i.stepLength ∧ 1 ≤ i.stepLength ∧ i.stepLength ≤ 4

theorem nop : Statement .nop := fun _ => ⟨rfl, Instr.stepLength_bounds _⟩

theorem exAfAf2 : Statement .exAfAf2 := fun _ => ⟨rfl, Instr.stepLength_bounds _⟩

theorem djnz (e : Byte) : Statement (.djnz e) := fun _ => ⟨rfl, Instr.stepLength_bounds _⟩

theorem jr (e : Byte) : Statement (.jr e) := fun _ => ⟨rfl, Instr.stepLength_bounds _⟩

theorem jrNz (e : Byte) : Statement (.jrNz e) := fun _ => ⟨rfl, Instr.stepLength_bounds _⟩

theorem jrZ (e : Byte) : Statement (.jrZ e) := fun _ => ⟨rfl, Instr.stepLength_bounds _⟩

theorem jrNc (e : Byte) : Statement (.jrNc e) := fun _ => ⟨rfl, Instr.stepLength_bounds _⟩

theorem jrC (e : Byte) : Statement (.jrC e) := fun _ => ⟨rfl, Instr.stepLength_bounds _⟩

theorem ldDdNn (dd : RegP) (nn : Word) : Statement (.ldDdNn dd nn) := fun _ => ⟨rfl, Instr.stepLength_bounds _⟩

theorem addHlSs (ss : RegP) : Statement (.addHlSs ss) := fun _ => ⟨rfl, Instr.stepLength_bounds _⟩

theorem ldIndBcA : Statement .ldIndBcA := fun _ => ⟨rfl, Instr.stepLength_bounds _⟩

theorem ldIndDeA : Statement .ldIndDeA := fun _ => ⟨rfl, Instr.stepLength_bounds _⟩

theorem ldIndNnHl (nn : Word) : Statement (.ldIndNnHl nn) := fun _ => ⟨rfl, Instr.stepLength_bounds _⟩

theorem ldIndNnA (nn : Word) : Statement (.ldIndNnA nn) := fun _ => ⟨rfl, Instr.stepLength_bounds _⟩

theorem ldAIndBc : Statement .ldAIndBc := fun _ => ⟨rfl, Instr.stepLength_bounds _⟩

theorem ldAIndDe : Statement .ldAIndDe := fun _ => ⟨rfl, Instr.stepLength_bounds _⟩

theorem ldHlIndNn (nn : Word) : Statement (.ldHlIndNn nn) := fun _ => ⟨rfl, Instr.stepLength_bounds _⟩

theorem ldAIndNn (nn : Word) : Statement (.ldAIndNn nn) := fun _ => ⟨rfl, Instr.stepLength_bounds _⟩

theorem incSs (ss : RegP) : Statement (.incSs ss) := fun _ => ⟨rfl, Instr.stepLength_bounds _⟩

theorem decSs (ss : RegP) : Statement (.decSs ss) := fun _ => ⟨rfl, Instr.stepLength_bounds _⟩

theorem incR (r : Reg8) : Statement (.incR r) := fun _ => ⟨rfl, Instr.stepLength_bounds _⟩

theorem incIndHl : Statement .incIndHl := fun _ => ⟨rfl, Instr.stepLength_bounds _⟩

theorem decR (r : Reg8) : Statement (.decR r) := fun _ => ⟨rfl, Instr.stepLength_bounds _⟩

theorem decIndHl : Statement .decIndHl := fun _ => ⟨rfl, Instr.stepLength_bounds _⟩

theorem ldRN (r : Reg8) (n : Byte) : Statement (.ldRN r n) := fun _ => ⟨rfl, Instr.stepLength_bounds _⟩

theorem ldIndHlN (n : Byte) : Statement (.ldIndHlN n) := fun _ => ⟨rfl, Instr.stepLength_bounds _⟩

theorem rlca : Statement .rlca := fun _ => ⟨rfl, Instr.stepLength_bounds _⟩

theorem rrca : Statement .rrca := fun _ => ⟨rfl, Instr.stepLength_bounds _⟩

theorem rla : Statement .rla := fun _ => ⟨rfl, Instr.stepLength_bounds _⟩

theorem rra : Statement .rra := fun _ => ⟨rfl, Instr.stepLength_bounds _⟩

theorem daa : Statement .daa := fun _ => ⟨rfl, Instr.stepLength_bounds _⟩

theorem cpl : Statement .cpl := fun _ => ⟨rfl, Instr.stepLength_bounds _⟩

theorem scf : Statement .scf := fun _ => ⟨rfl, Instr.stepLength_bounds _⟩

theorem ccf : Statement .ccf := fun _ => ⟨rfl, Instr.stepLength_bounds _⟩

theorem ldRR (r : Reg8) (r' : Reg8) : Statement (.ldRR r r') := fun _ => ⟨rfl, Instr.stepLength_bounds _⟩

theorem ldRIndHl (r : Reg8) : Statement (.ldRIndHl r) := fun _ => ⟨rfl, Instr.stepLength_bounds _⟩

theorem ldIndHlR (r : Reg8) : Statement (.ldIndHlR r) := fun _ => ⟨rfl, Instr.stepLength_bounds _⟩

theorem halt : Statement .halt := fun _ => ⟨rfl, Instr.stepLength_bounds _⟩

theorem addAR (r : Reg8) : Statement (.addAR r) := fun _ => ⟨rfl, Instr.stepLength_bounds _⟩

theorem addAIndHl : Statement .addAIndHl := fun _ => ⟨rfl, Instr.stepLength_bounds _⟩

theorem addAN (n : Byte) : Statement (.addAN n) := fun _ => ⟨rfl, Instr.stepLength_bounds _⟩

theorem adcAR (r : Reg8) : Statement (.adcAR r) := fun _ => ⟨rfl, Instr.stepLength_bounds _⟩

theorem adcAIndHl : Statement .adcAIndHl := fun _ => ⟨rfl, Instr.stepLength_bounds _⟩

theorem adcAN (n : Byte) : Statement (.adcAN n) := fun _ => ⟨rfl, Instr.stepLength_bounds _⟩

theorem subR (r : Reg8) : Statement (.subR r) := fun _ => ⟨rfl, Instr.stepLength_bounds _⟩

theorem subIndHl : Statement .subIndHl := fun _ => ⟨rfl, Instr.stepLength_bounds _⟩

theorem subN (n : Byte) : Statement (.subN n) := fun _ => ⟨rfl, Instr.stepLength_bounds _⟩

theorem sbcAR (r : Reg8) : Statement (.sbcAR r) := fun _ => ⟨rfl, Instr.stepLength_bounds _⟩

theorem sbcAIndHl : Statement .sbcAIndHl := fun _ => ⟨rfl, Instr.stepLength_bounds _⟩

theorem sbcAN (n : Byte) : Statement (.sbcAN n) := fun _ => ⟨rfl, Instr.stepLength_bounds _⟩

theorem andR (r : Reg8) : Statement (.andR r) := fun _ => ⟨rfl, Instr.stepLength_bounds _⟩

theorem andIndHl : Statement .andIndHl := fun _ => ⟨rfl, Instr.stepLength_bounds _⟩

theorem andN (n : Byte) : Statement (.andN n) := fun _ => ⟨rfl, Instr.stepLength_bounds _⟩

theorem xorR (r : Reg8) : Statement (.xorR r) := fun _ => ⟨rfl, Instr.stepLength_bounds _⟩

theorem xorIndHl : Statement .xorIndHl := fun _ => ⟨rfl, Instr.stepLength_bounds _⟩

theorem xorN (n : Byte) : Statement (.xorN n) := fun _ => ⟨rfl, Instr.stepLength_bounds _⟩

theorem orR (r : Reg8) : Statement (.orR r) := fun _ => ⟨rfl, Instr.stepLength_bounds _⟩

theorem orIndHl : Statement .orIndHl := fun _ => ⟨rfl, Instr.stepLength_bounds _⟩

theorem orN (n : Byte) : Statement (.orN n) := fun _ => ⟨rfl, Instr.stepLength_bounds _⟩

theorem cpR (r : Reg8) : Statement (.cpR r) := fun _ => ⟨rfl, Instr.stepLength_bounds _⟩

theorem cpIndHl : Statement .cpIndHl := fun _ => ⟨rfl, Instr.stepLength_bounds _⟩

theorem cpN (n : Byte) : Statement (.cpN n) := fun _ => ⟨rfl, Instr.stepLength_bounds _⟩

theorem retCc (cc : Cond) : Statement (.retCc cc) := fun _ => ⟨rfl, Instr.stepLength_bounds _⟩

theorem popQq (qq : RegQ) : Statement (.popQq qq) := fun _ => ⟨rfl, Instr.stepLength_bounds _⟩

theorem ret : Statement .ret := fun _ => ⟨rfl, Instr.stepLength_bounds _⟩

theorem exx : Statement .exx := fun _ => ⟨rfl, Instr.stepLength_bounds _⟩

theorem jpHl : Statement .jpHl := fun _ => ⟨rfl, Instr.stepLength_bounds _⟩

theorem ldSpHl : Statement .ldSpHl := fun _ => ⟨rfl, Instr.stepLength_bounds _⟩

theorem jpCcNn (cc : Cond) (nn : Word) : Statement (.jpCcNn cc nn) := fun _ => ⟨rfl, Instr.stepLength_bounds _⟩

theorem jpNn (nn : Word) : Statement (.jpNn nn) := fun _ => ⟨rfl, Instr.stepLength_bounds _⟩

theorem outNA (n : Byte) : Statement (.outNA n) := fun _ => ⟨rfl, Instr.stepLength_bounds _⟩

theorem inAN (n : Byte) : Statement (.inAN n) := fun _ => ⟨rfl, Instr.stepLength_bounds _⟩

theorem exSpHl : Statement .exSpHl := fun _ => ⟨rfl, Instr.stepLength_bounds _⟩

theorem exDeHl : Statement .exDeHl := fun _ => ⟨rfl, Instr.stepLength_bounds _⟩

theorem di : Statement .di := fun _ => ⟨rfl, Instr.stepLength_bounds _⟩

theorem ei : Statement .ei := fun _ => ⟨rfl, Instr.stepLength_bounds _⟩

theorem callCcNn (cc : Cond) (nn : Word) : Statement (.callCcNn cc nn) := fun _ => ⟨rfl, Instr.stepLength_bounds _⟩

theorem pushQq (qq : RegQ) : Statement (.pushQq qq) := fun _ => ⟨rfl, Instr.stepLength_bounds _⟩

theorem callNn (nn : Word) : Statement (.callNn nn) := fun _ => ⟨rfl, Instr.stepLength_bounds _⟩

theorem rst (t : Fin 8) : Statement (.rst t) := fun _ => ⟨rfl, Instr.stepLength_bounds _⟩

theorem prefixIx : Statement .prefixIx := fun _ => ⟨rfl, Instr.stepLength_bounds _⟩

theorem prefixIy : Statement .prefixIy := fun _ => ⟨rfl, Instr.stepLength_bounds _⟩

theorem rlcR (r : Reg8) : Statement (.rlcR r) := fun _ => ⟨rfl, Instr.stepLength_bounds _⟩

theorem rlcIndHl : Statement .rlcIndHl := fun _ => ⟨rfl, Instr.stepLength_bounds _⟩

theorem rrcR (r : Reg8) : Statement (.rrcR r) := fun _ => ⟨rfl, Instr.stepLength_bounds _⟩

theorem rrcIndHl : Statement .rrcIndHl := fun _ => ⟨rfl, Instr.stepLength_bounds _⟩

theorem rlR (r : Reg8) : Statement (.rlR r) := fun _ => ⟨rfl, Instr.stepLength_bounds _⟩

theorem rlIndHl : Statement .rlIndHl := fun _ => ⟨rfl, Instr.stepLength_bounds _⟩

theorem rrR (r : Reg8) : Statement (.rrR r) := fun _ => ⟨rfl, Instr.stepLength_bounds _⟩

theorem rrIndHl : Statement .rrIndHl := fun _ => ⟨rfl, Instr.stepLength_bounds _⟩

theorem slaR (r : Reg8) : Statement (.slaR r) := fun _ => ⟨rfl, Instr.stepLength_bounds _⟩

theorem slaIndHl : Statement .slaIndHl := fun _ => ⟨rfl, Instr.stepLength_bounds _⟩

theorem sraR (r : Reg8) : Statement (.sraR r) := fun _ => ⟨rfl, Instr.stepLength_bounds _⟩

theorem sraIndHl : Statement .sraIndHl := fun _ => ⟨rfl, Instr.stepLength_bounds _⟩

theorem sllR (r : Reg8) : Statement (.sllR r) := fun _ => ⟨rfl, Instr.stepLength_bounds _⟩

theorem sllIndHl : Statement .sllIndHl := fun _ => ⟨rfl, Instr.stepLength_bounds _⟩

theorem srlR (r : Reg8) : Statement (.srlR r) := fun _ => ⟨rfl, Instr.stepLength_bounds _⟩

theorem srlIndHl : Statement .srlIndHl := fun _ => ⟨rfl, Instr.stepLength_bounds _⟩

theorem bitBR (b : Fin 8) (r : Reg8) : Statement (.bitBR b r) := fun _ => ⟨rfl, Instr.stepLength_bounds _⟩

theorem bitBIndHl (b : Fin 8) : Statement (.bitBIndHl b) := fun _ => ⟨rfl, Instr.stepLength_bounds _⟩

theorem resBR (b : Fin 8) (r : Reg8) : Statement (.resBR b r) := fun _ => ⟨rfl, Instr.stepLength_bounds _⟩

theorem resBIndHl (b : Fin 8) : Statement (.resBIndHl b) := fun _ => ⟨rfl, Instr.stepLength_bounds _⟩

theorem setBR (b : Fin 8) (r : Reg8) : Statement (.setBR b r) := fun _ => ⟨rfl, Instr.stepLength_bounds _⟩

theorem setBIndHl (b : Fin 8) : Statement (.setBIndHl b) := fun _ => ⟨rfl, Instr.stepLength_bounds _⟩

theorem inRC (r : Reg8) : Statement (.inRC r) := fun _ => ⟨rfl, Instr.stepLength_bounds _⟩

theorem inC : Statement .inC := fun _ => ⟨rfl, Instr.stepLength_bounds _⟩

theorem outCR (r : Reg8) : Statement (.outCR r) := fun _ => ⟨rfl, Instr.stepLength_bounds _⟩

theorem outC0 : Statement .outC0 := fun _ => ⟨rfl, Instr.stepLength_bounds _⟩

theorem sbcHlSs (ss : RegP) : Statement (.sbcHlSs ss) := fun _ => ⟨rfl, Instr.stepLength_bounds _⟩

theorem adcHlSs (ss : RegP) : Statement (.adcHlSs ss) := fun _ => ⟨rfl, Instr.stepLength_bounds _⟩

theorem ldIndNnDd (nn : Word) (dd : RegP) : Statement (.ldIndNnDd nn dd) := fun _ => ⟨rfl, Instr.stepLength_bounds _⟩

theorem ldDdIndNn (dd : RegP) (nn : Word) : Statement (.ldDdIndNn dd nn) := fun _ => ⟨rfl, Instr.stepLength_bounds _⟩

theorem neg : Statement .neg := fun _ => ⟨rfl, Instr.stepLength_bounds _⟩

theorem negAlias (y : Fin 8) : Statement (.negAlias y) := fun _ => ⟨rfl, Instr.stepLength_bounds _⟩

theorem retn : Statement .retn := fun _ => ⟨rfl, Instr.stepLength_bounds _⟩

theorem reti : Statement .reti := fun _ => ⟨rfl, Instr.stepLength_bounds _⟩

theorem retnAlias (y : Fin 8) : Statement (.retnAlias y) := fun _ => ⟨rfl, Instr.stepLength_bounds _⟩

theorem im0 : Statement .im0 := fun _ => ⟨rfl, Instr.stepLength_bounds _⟩

theorem im0Alias (y : Fin 8) : Statement (.im0Alias y) := fun _ => ⟨rfl, Instr.stepLength_bounds _⟩

theorem im1 : Statement .im1 := fun _ => ⟨rfl, Instr.stepLength_bounds _⟩

theorem im1Alias : Statement .im1Alias := fun _ => ⟨rfl, Instr.stepLength_bounds _⟩

theorem im2 : Statement .im2 := fun _ => ⟨rfl, Instr.stepLength_bounds _⟩

theorem im2Alias : Statement .im2Alias := fun _ => ⟨rfl, Instr.stepLength_bounds _⟩

theorem ldIA : Statement .ldIA := fun _ => ⟨rfl, Instr.stepLength_bounds _⟩

theorem ldRefA : Statement .ldRefA := fun _ => ⟨rfl, Instr.stepLength_bounds _⟩

theorem ldAI : Statement .ldAI := fun _ => ⟨rfl, Instr.stepLength_bounds _⟩

theorem ldARef : Statement .ldARef := fun _ => ⟨rfl, Instr.stepLength_bounds _⟩

theorem rrd : Statement .rrd := fun _ => ⟨rfl, Instr.stepLength_bounds _⟩

theorem rld : Statement .rld := fun _ => ⟨rfl, Instr.stepLength_bounds _⟩

theorem ldi : Statement .ldi := fun _ => ⟨rfl, Instr.stepLength_bounds _⟩

theorem cpi : Statement .cpi := fun _ => ⟨rfl, Instr.stepLength_bounds _⟩

theorem ini : Statement .ini := fun _ => ⟨rfl, Instr.stepLength_bounds _⟩

theorem outi : Statement .outi := fun _ => ⟨rfl, Instr.stepLength_bounds _⟩

theorem ldd : Statement .ldd := fun _ => ⟨rfl, Instr.stepLength_bounds _⟩

theorem cpd : Statement .cpd := fun _ => ⟨rfl, Instr.stepLength_bounds _⟩

theorem ind : Statement .ind := fun _ => ⟨rfl, Instr.stepLength_bounds _⟩

theorem outd : Statement .outd := fun _ => ⟨rfl, Instr.stepLength_bounds _⟩

theorem ldir : Statement .ldir := fun _ => ⟨rfl, Instr.stepLength_bounds _⟩

theorem cpir : Statement .cpir := fun _ => ⟨rfl, Instr.stepLength_bounds _⟩

theorem inir : Statement .inir := fun _ => ⟨rfl, Instr.stepLength_bounds _⟩

theorem otir : Statement .otir := fun _ => ⟨rfl, Instr.stepLength_bounds _⟩

theorem lddr : Statement .lddr := fun _ => ⟨rfl, Instr.stepLength_bounds _⟩

theorem cpdr : Statement .cpdr := fun _ => ⟨rfl, Instr.stepLength_bounds _⟩

theorem indr : Statement .indr := fun _ => ⟨rfl, Instr.stepLength_bounds _⟩

theorem otdr : Statement .otdr := fun _ => ⟨rfl, Instr.stepLength_bounds _⟩

theorem edNop (o : Byte) : Statement (.edNop o) := fun _ => ⟨rfl, Instr.stepLength_bounds _⟩

theorem ldXyNn (x : Index) (nn : Word) : Statement (.ldXyNn x nn) := fun _ => ⟨rfl, Instr.stepLength_bounds _⟩

theorem addXyPp (x : Index) (pp : RegX) : Statement (.addXyPp x pp) := fun _ => ⟨rfl, Instr.stepLength_bounds _⟩

theorem ldIndNnXy (x : Index) (nn : Word) : Statement (.ldIndNnXy x nn) := fun _ => ⟨rfl, Instr.stepLength_bounds _⟩

theorem ldXyIndNn (x : Index) (nn : Word) : Statement (.ldXyIndNn x nn) := fun _ => ⟨rfl, Instr.stepLength_bounds _⟩

theorem incXy (x : Index) : Statement (.incXy x) := fun _ => ⟨rfl, Instr.stepLength_bounds _⟩

theorem decXy (x : Index) : Statement (.decXy x) := fun _ => ⟨rfl, Instr.stepLength_bounds _⟩

theorem incXyHalf (x : Index) (k : Half) : Statement (.incXyHalf x k) := fun _ => ⟨rfl, Instr.stepLength_bounds _⟩

theorem decXyHalf (x : Index) (k : Half) : Statement (.decXyHalf x k) := fun _ => ⟨rfl, Instr.stepLength_bounds _⟩

theorem ldXyHalfN (x : Index) (k : Half) (n : Byte) : Statement (.ldXyHalfN x k n) :=
  fun _ => ⟨rfl, Instr.stepLength_bounds _⟩

theorem incIndXy (x : Index) (d : Byte) : Statement (.incIndXy x d) := fun _ => ⟨rfl, Instr.stepLength_bounds _⟩

theorem decIndXy (x : Index) (d : Byte) : Statement (.decIndXy x d) := fun _ => ⟨rfl, Instr.stepLength_bounds _⟩

theorem ldIndXyN (x : Index) (d : Byte) (n : Byte) : Statement (.ldIndXyN x d n) :=
  fun _ => ⟨rfl, Instr.stepLength_bounds _⟩

theorem ldPP (x : Index) (p : IReg8) (p' : IReg8) : Statement (.ldPP x p p') :=
  fun _ => ⟨rfl, Instr.stepLength_bounds _⟩

theorem ldRIndXy (x : Index) (r : Reg8) (d : Byte) : Statement (.ldRIndXy x r d) :=
  fun _ => ⟨rfl, Instr.stepLength_bounds _⟩

theorem ldIndXyR (x : Index) (d : Byte) (r : Reg8) : Statement (.ldIndXyR x d r) :=
  fun _ => ⟨rfl, Instr.stepLength_bounds _⟩

theorem addAXyHalf (x : Index) (k : Half) : Statement (.addAXyHalf x k) := fun _ => ⟨rfl, Instr.stepLength_bounds _⟩

theorem addAIndXy (x : Index) (d : Byte) : Statement (.addAIndXy x d) := fun _ => ⟨rfl, Instr.stepLength_bounds _⟩

theorem adcAXyHalf (x : Index) (k : Half) : Statement (.adcAXyHalf x k) := fun _ => ⟨rfl, Instr.stepLength_bounds _⟩

theorem adcAIndXy (x : Index) (d : Byte) : Statement (.adcAIndXy x d) := fun _ => ⟨rfl, Instr.stepLength_bounds _⟩

theorem subXyHalf (x : Index) (k : Half) : Statement (.subXyHalf x k) := fun _ => ⟨rfl, Instr.stepLength_bounds _⟩

theorem subIndXy (x : Index) (d : Byte) : Statement (.subIndXy x d) := fun _ => ⟨rfl, Instr.stepLength_bounds _⟩

theorem sbcAXyHalf (x : Index) (k : Half) : Statement (.sbcAXyHalf x k) := fun _ => ⟨rfl, Instr.stepLength_bounds _⟩

theorem sbcAIndXy (x : Index) (d : Byte) : Statement (.sbcAIndXy x d) := fun _ => ⟨rfl, Instr.stepLength_bounds _⟩

theorem andXyHalf (x : Index) (k : Half) : Statement (.andXyHalf x k) := fun _ => ⟨rfl, Instr.stepLength_bounds _⟩

theorem andIndXy (x : Index) (d : Byte) : Statement (.andIndXy x d) := fun _ => ⟨rfl, Instr.stepLength_bounds _⟩

theorem xorXyHalf (x : Index) (k : Half) : Statement (.xorXyHalf x k) := fun _ => ⟨rfl, Instr.stepLength_bounds _⟩

theorem xorIndXy (x : Index) (d : Byte) : Statement (.xorIndXy x d) := fun _ => ⟨rfl, Instr.stepLength_bounds _⟩

theorem orXyHalf (x : Index) (k : Half) : Statement (.orXyHalf x k) := fun _ => ⟨rfl, Instr.stepLength_bounds _⟩

theorem orIndXy (x : Index) (d : Byte) : Statement (.orIndXy x d) := fun _ => ⟨rfl, Instr.stepLength_bounds _⟩

theorem cpXyHalf (x : Index) (k : Half) : Statement (.cpXyHalf x k) := fun _ => ⟨rfl, Instr.stepLength_bounds _⟩

theorem cpIndXy (x : Index) (d : Byte) : Statement (.cpIndXy x d) := fun _ => ⟨rfl, Instr.stepLength_bounds _⟩

theorem popXy (x : Index) : Statement (.popXy x) := fun _ => ⟨rfl, Instr.stepLength_bounds _⟩

theorem jpXy (x : Index) : Statement (.jpXy x) := fun _ => ⟨rfl, Instr.stepLength_bounds _⟩

theorem ldSpXy (x : Index) : Statement (.ldSpXy x) := fun _ => ⟨rfl, Instr.stepLength_bounds _⟩

theorem exSpXy (x : Index) : Statement (.exSpXy x) := fun _ => ⟨rfl, Instr.stepLength_bounds _⟩

theorem pushXy (x : Index) : Statement (.pushXy x) := fun _ => ⟨rfl, Instr.stepLength_bounds _⟩

theorem rlcIndXy (x : Index) (d : Byte) : Statement (.rlcIndXy x d) := fun _ => ⟨rfl, Instr.stepLength_bounds _⟩

theorem rlcIndXyR (x : Index) (d : Byte) (r : Reg8) : Statement (.rlcIndXyR x d r) :=
  fun _ => ⟨rfl, Instr.stepLength_bounds _⟩

theorem rrcIndXy (x : Index) (d : Byte) : Statement (.rrcIndXy x d) := fun _ => ⟨rfl, Instr.stepLength_bounds _⟩

theorem rrcIndXyR (x : Index) (d : Byte) (r : Reg8) : Statement (.rrcIndXyR x d r) :=
  fun _ => ⟨rfl, Instr.stepLength_bounds _⟩

theorem rlIndXy (x : Index) (d : Byte) : Statement (.rlIndXy x d) := fun _ => ⟨rfl, Instr.stepLength_bounds _⟩

theorem rlIndXyR (x : Index) (d : Byte) (r : Reg8) : Statement (.rlIndXyR x d r) :=
  fun _ => ⟨rfl, Instr.stepLength_bounds _⟩

theorem rrIndXy (x : Index) (d : Byte) : Statement (.rrIndXy x d) := fun _ => ⟨rfl, Instr.stepLength_bounds _⟩

theorem rrIndXyR (x : Index) (d : Byte) (r : Reg8) : Statement (.rrIndXyR x d r) :=
  fun _ => ⟨rfl, Instr.stepLength_bounds _⟩

theorem slaIndXy (x : Index) (d : Byte) : Statement (.slaIndXy x d) := fun _ => ⟨rfl, Instr.stepLength_bounds _⟩

theorem slaIndXyR (x : Index) (d : Byte) (r : Reg8) : Statement (.slaIndXyR x d r) :=
  fun _ => ⟨rfl, Instr.stepLength_bounds _⟩

theorem sraIndXy (x : Index) (d : Byte) : Statement (.sraIndXy x d) := fun _ => ⟨rfl, Instr.stepLength_bounds _⟩

theorem sraIndXyR (x : Index) (d : Byte) (r : Reg8) : Statement (.sraIndXyR x d r) :=
  fun _ => ⟨rfl, Instr.stepLength_bounds _⟩

theorem sllIndXy (x : Index) (d : Byte) : Statement (.sllIndXy x d) := fun _ => ⟨rfl, Instr.stepLength_bounds _⟩

theorem sllIndXyR (x : Index) (d : Byte) (r : Reg8) : Statement (.sllIndXyR x d r) :=
  fun _ => ⟨rfl, Instr.stepLength_bounds _⟩

theorem srlIndXy (x : Index) (d : Byte) : Statement (.srlIndXy x d) := fun _ => ⟨rfl, Instr.stepLength_bounds _⟩

theorem srlIndXyR (x : Index) (d : Byte) (r : Reg8) : Statement (.srlIndXyR x d r) :=
  fun _ => ⟨rfl, Instr.stepLength_bounds _⟩

theorem bitBIndXy (x : Index) (d : Byte) (b : Fin 8) : Statement (.bitBIndXy x d b) :=
  fun _ => ⟨rfl, Instr.stepLength_bounds _⟩

theorem bitBIndXyAlias (x : Index) (d : Byte) (b : Fin 8) (z : Fin 8) : Statement (.bitBIndXyAlias x d b z) :=
  fun _ => ⟨rfl, Instr.stepLength_bounds _⟩

theorem resBIndXy (x : Index) (d : Byte) (b : Fin 8) : Statement (.resBIndXy x d b) :=
  fun _ => ⟨rfl, Instr.stepLength_bounds _⟩

theorem resBIndXyR (x : Index) (d : Byte) (b : Fin 8) (r : Reg8) : Statement (.resBIndXyR x d b r) :=
  fun _ => ⟨rfl, Instr.stepLength_bounds _⟩

theorem setBIndXy (x : Index) (d : Byte) (b : Fin 8) : Statement (.setBIndXy x d b) :=
  fun _ => ⟨rfl, Instr.stepLength_bounds _⟩

theorem setBIndXyR (x : Index) (d : Byte) (b : Fin 8) (r : Reg8) : Statement (.setBIndXyR x d b r) :=
  fun _ => ⟨rfl, Instr.stepLength_bounds _⟩

theorem unaffected (x : Index) (i : Instr) : Statement (.unaffected x i) := fun h => by
  cases i <;> first | exact ⟨rfl, Instr.stepLength_bounds _⟩ | exact absurd h (by simp [Instr.wf, Instr.fallsThrough])

end Sys2Proof.Laws.StepLength
end

