-- ==== Sys2Proof/Laws/Step.lean ====
section
/-! SUPPORT. The step: it is the one of the steps that run no instruction, if there is one, else the meaning of the
instruction at PC (R481). -/

namespace Sys2Proof.Machine

theorem step_of_nonInstruction {s t : State} (h : nonInstructionStep s.beginStep = some t) : step s = .next t := by
  simp only [step, h]

theorem step_of_instruction {s : State} (h : nonInstructionStep s.beginStep = none) :
    step s = exec s.beginStep.endDefer.nextInstr (fetchInstr s.beginStep.endDefer).2 := by
  simp only [step, h, fetchInstr]

/-- What a step runs depends on PC, on the index mode and on what is shared with the host alone. -/
theorem nextInstr_congr {s t : State} (hs : t.toShared = s.toShared) (hp : t.pc = s.pc) (hx : t.xyMode = s.xyMode) :
    t.nextInstr = s.nextInstr := by
  simp only [State.nextInstr, fetchArgs, fetchArg, State.perform, hs, hp, hx]

end Sys2Proof.Machine
end

