-- ==== Sys2Proof/Tests/Slice0.lean ====
section
/-! SUPPORT. Tests. Expected values come from the spec: the encodings from the bit patterns of spec/opcode_table.json, the
step tests from the vectors of spec/95_test_vectors.md, named by their numbers. The witnesses at the end show, for each
statement with hypotheses, a state and operands that meet them. -/

namespace Sys2Proof.Tests

open Sys2Proof Sys2Proof.Machine

/-! ### Ill-formed terms, refused -/

theorem test_wf_refuses_neg_alias_of_neg : (Instr.negAlias 0).wf = false := by decide

theorem test_wf_refuses_retn_alias_of_retn : (Instr.retnAlias 0).wf = false := by decide

theorem test_wf_refuses_retn_alias_of_reti : (Instr.retnAlias 1).wf = false := by decide

theorem test_wf_refuses_im0_alias_of_im1 : (Instr.im0Alias 2).wf = false := by decide

theorem test_wf_refuses_ed_nop_of_ldir : (Instr.edNop 0xB0).wf = false := by decide

theorem test_wf_refuses_half_load_without_a_half : (Instr.ldPP .ix .b .c).wf = false := by decide

theorem test_wf_refuses_bit_alias_of_bit : (Instr.bitBIndXyAlias .ix 0 0 6).wf = false := by decide

theorem test_wf_refuses_fall_through_of_a_replaced_operand : (Instr.unaffected .ix (.incR .h)).wf = false := by decide

theorem test_wf_refuses_fall_through_of_an_ill_formed_term :
    (Instr.unaffected .iy (.negAlias 0)).wf = false := by decide

theorem test_wf_refuses_nested_fall_through : (Instr.unaffected .ix (.unaffected .iy .nop)).wf = false := by decide

theorem test_wf_accepts_fall_through : (Instr.unaffected .ix (.ldRR .b .c)).wf = true := by decide

/-! ### A word of every constructor, from its row's bit pattern -/

/-- The bytes are exactly one instruction of the opcode table, this one. -/
def reads (bs : List Byte) (i : Instr) : Bool :=
  match decodeBytes bs with
  | .ok (j, rest) => j == i && rest == []
  | .error _ => false

theorem test_decode_rejects_no_bytes : decodeBytes [] = .error .truncated := by rfl

theorem test_decode_rejects_a_short_word : decodeBytes [0xC3, 0x34] = .error .truncated := by rfl

theorem test_decode_base_1 :
    (reads [0x00] .nop &&
      reads [0x08] .exAfAf2 &&
      reads [0x10, 0xFE] (.djnz 0xFE) &&
      reads [0x18, 0xFE] (.jr 0xFE) &&
      reads [0x20, 0xFE] (.jrNz 0xFE) &&
      reads [0x28, 0xFE] (.jrZ 0xFE) &&
      reads [0x30, 0xFE] (.jrNc 0xFE) &&
      reads [0x38, 0xFE] (.jrC 0xFE) &&
      reads [0x21, 0x34, 0x12] (.ldDdNn .hl 0x1234) &&
      reads [0x39] (.addHlSs .sp) &&
      reads [0x02] .ldIndBcA &&
      reads [0x12] .ldIndDeA) = true := by
  decide

theorem test_decode_base_2 :
    (reads [0x22, 0x34, 0x12] (.ldIndNnHl 0x1234) &&
      reads [0x32, 0x34, 0x12] (.ldIndNnA 0x1234) &&
      reads [0x0A] .ldAIndBc &&
      reads [0x1A] .ldAIndDe &&
      reads [0x2A, 0x34, 0x12] (.ldHlIndNn 0x1234) &&
      reads [0x3A, 0x34, 0x12] (.ldAIndNn 0x1234) &&
      reads [0x13] (.incSs .de) &&
      reads [0x0B] (.decSs .bc) &&
      reads [0x1C] (.incR .e) &&
      reads [0x34] .incIndHl &&
      reads [0x0D] (.decR .c) &&
      reads [0x35] .decIndHl) = true := by
  decide

theorem test_decode_base_3 :
    (reads [0x16, 0x5A] (.ldRN .d 0x5A) &&
      reads [0x36, 0x5A] (.ldIndHlN 0x5A) &&
      reads [0x07] .rlca &&
      reads [0x0F] .rrca &&
      reads [0x17] .rla &&
      reads [0x1F] .rra &&
      reads [0x27] .daa &&
      reads [0x2F] .cpl &&
      reads [0x37] .scf &&
      reads [0x3F] .ccf &&
      reads [0x54] (.ldRR .d .h) &&
      reads [0x5E] (.ldRIndHl .e)) = true := by
  decide

theorem test_decode_base_4 :
    (reads [0x70] (.ldIndHlR .b) &&
      reads [0x76] .halt &&
      reads [0x85] (.addAR .l) &&
      reads [0x86] .addAIndHl &&
      reads [0xC6, 0x5A] (.addAN 0x5A) &&
      reads [0x88] (.adcAR .b) &&
      reads [0x8E] .adcAIndHl &&
      reads [0xCE, 0x5A] (.adcAN 0x5A) &&
      reads [0x92] (.subR .d) &&
      reads [0x96] .subIndHl &&
      reads [0xD6, 0x5A] (.subN 0x5A) &&
      reads [0x9F] (.sbcAR .a)) = true := by
  decide

theorem test_decode_base_5 :
    (reads [0x9E] .sbcAIndHl &&
      reads [0xDE, 0x5A] (.sbcAN 0x5A) &&
      reads [0xA1] (.andR .c) &&
      reads [0xA6] .andIndHl &&
      reads [0xE6, 0x5A] (.andN 0x5A) &&
      reads [0xAD] (.xorR .l) &&
      reads [0xAE] .xorIndHl &&
      reads [0xEE, 0x5A] (.xorN 0x5A) &&
      reads [0xB0] (.orR .b) &&
      reads [0xB6] .orIndHl &&
      reads [0xF6, 0x5A] (.orN 0x5A) &&
      reads [0xBA] (.cpR .d)) = true := by
  decide

theorem test_decode_base_6 :
    (reads [0xBE] .cpIndHl &&
      reads [0xFE, 0x5A] (.cpN 0x5A) &&
      reads [0xF8] (.retCc .m) &&
      reads [0xF1] (.popQq .af) &&
      reads [0xC9] .ret &&
      reads [0xD9] .exx &&
      reads [0xE9] .jpHl &&
      reads [0xF9] .ldSpHl &&
      reads [0xFA, 0x34, 0x12] (.jpCcNn .m 0x1234) &&
      reads [0xC3, 0x34, 0x12] (.jpNn 0x1234) &&
      reads [0xD3, 0x5A] (.outNA 0x5A) &&
      reads [0xDB, 0x5A] (.inAN 0x5A)) = true := by
  decide

theorem test_decode_base_7 :
    (reads [0xE3] .exSpHl &&
      reads [0xEB] .exDeHl &&
      reads [0xF3] .di &&
      reads [0xFB] .ei &&
      reads [0xD4, 0x34, 0x12] (.callCcNn .nc 0x1234) &&
      reads [0xF5] (.pushQq .af) &&
      reads [0xCD, 0x34, 0x12] (.callNn 0x1234) &&
      reads [0xEF] (.rst 5) &&
      reads [0xDD] .prefixIx &&
      reads [0xFD] .prefixIy) = true := by
  decide

theorem test_decode_cb_1 :
    (reads [0xCB, 0x07] (.rlcR .a) &&
      reads [0xCB, 0x06] .rlcIndHl &&
      reads [0xCB, 0x0A] (.rrcR .d) &&
      reads [0xCB, 0x0E] .rrcIndHl &&
      reads [0xCB, 0x10] (.rlR .b) &&
      reads [0xCB, 0x16] .rlIndHl &&
      reads [0xCB, 0x1D] (.rrR .l) &&
      reads [0xCB, 0x1E] .rrIndHl &&
      reads [0xCB, 0x21] (.slaR .c) &&
      reads [0xCB, 0x26] .slaIndHl &&
      reads [0xCB, 0x2F] (.sraR .a) &&
      reads [0xCB, 0x2E] .sraIndHl) = true := by
  decide

theorem test_decode_cb_2 :
    (reads [0xCB, 0x32] (.sllR .d) &&
      reads [0xCB, 0x36] .sllIndHl &&
      reads [0xCB, 0x38] (.srlR .b) &&
      reads [0xCB, 0x3E] .srlIndHl &&
      reads [0xCB, 0x75] (.bitBR 6 .l) &&
      reads [0xCB, 0x76] (.bitBIndHl 6) &&
      reads [0xCB, 0xB1] (.resBR 6 .c) &&
      reads [0xCB, 0xB6] (.resBIndHl 6) &&
      reads [0xCB, 0xF7] (.setBR 6 .a) &&
      reads [0xCB, 0xF6] (.setBIndHl 6)) = true := by
  decide

theorem test_decode_ed_1 :
    (reads [0xED, 0x50] (.inRC .d) &&
      reads [0xED, 0x70] .inC &&
      reads [0xED, 0x79] (.outCR .a) &&
      reads [0xED, 0x71] .outC0 &&
      reads [0xED, 0x62] (.sbcHlSs .hl) &&
      reads [0xED, 0x7A] (.adcHlSs .sp) &&
      reads [0xED, 0x53, 0x34, 0x12] (.ldIndNnDd 0x1234 .de) &&
      reads [0xED, 0x4B, 0x34, 0x12] (.ldDdIndNn .bc 0x1234) &&
      reads [0xED, 0x44] .neg &&
      reads [0xED, 0x6C] (.negAlias 5) &&
      reads [0xED, 0x45] .retn &&
      reads [0xED, 0x4D] .reti) = true := by
  decide

theorem test_decode_ed_2 :
    (reads [0xED, 0x75] (.retnAlias 6) &&
      reads [0xED, 0x46] .im0 &&
      reads [0xED, 0x6E] (.im0Alias 5) &&
      reads [0xED, 0x56] .im1 &&
      reads [0xED, 0x76] .im1Alias &&
      reads [0xED, 0x5E] .im2 &&
      reads [0xED, 0x7E] .im2Alias &&
      reads [0xED, 0x47] .ldIA &&
      reads [0xED, 0x4F] .ldRefA &&
      reads [0xED, 0x57] .ldAI &&
      reads [0xED, 0x5F] .ldARef &&
      reads [0xED, 0x67] .rrd) = true := by
  decide

theorem test_decode_ed_3 :
    (reads [0xED, 0x6F] .rld &&
      reads [0xED, 0xA0] .ldi &&
      reads [0xED, 0xA1] .cpi &&
      reads [0xED, 0xA2] .ini &&
      reads [0xED, 0xA3] .outi &&
      reads [0xED, 0xA8] .ldd &&
      reads [0xED, 0xA9] .cpd &&
      reads [0xED, 0xAA] .ind &&
      reads [0xED, 0xAB] .outd &&
      reads [0xED, 0xB0] .ldir &&
      reads [0xED, 0xB1] .cpir &&
      reads [0xED, 0xB2] .inir) = true := by
  decide

theorem test_decode_ed_4 :
    (reads [0xED, 0xB3] .otir &&
      reads [0xED, 0xB8] .lddr &&
      reads [0xED, 0xB9] .cpdr &&
      reads [0xED, 0xBA] .indr &&
      reads [0xED, 0xBB] .otdr &&
      reads [0xED, 0x77] (.edNop 0x77)) = true := by
  decide

theorem test_decode_xy_1 :
    (reads [0xDD, 0x21, 0x34, 0x12] (.ldXyNn .ix 0x1234) &&
      reads [0xFD, 0x09] (.addXyPp .iy .bc) &&
      reads [0xDD, 0x22, 0x34, 0x12] (.ldIndNnXy .ix 0x1234) &&
      reads [0xFD, 0x2A, 0x34, 0x12] (.ldXyIndNn .iy 0x1234) &&
      reads [0xDD, 0x23] (.incXy .ix) &&
      reads [0xFD, 0x2B] (.decXy .iy) &&
      reads [0xDD, 0x24] (.incXyHalf .ix .high) &&
      reads [0xFD, 0x25] (.decXyHalf .iy .high) &&
      reads [0xDD, 0x2E, 0x5A] (.ldXyHalfN .ix .low 0x5A) &&
      reads [0xFD, 0x34, 0x85] (.incIndXy .iy 0x85) &&
      reads [0xDD, 0x35, 0x85] (.decIndXy .ix 0x85) &&
      reads [0xFD, 0x36, 0x85, 0x5A] (.ldIndXyN .iy 0x85 0x5A)) = true := by
  decide

theorem test_decode_xy_2 :
    (reads [0xDD, 0x67] (.ldPP .ix .xh .a) &&
      reads [0xFD, 0x66, 0x85] (.ldRIndXy .iy .h 0x85) &&
      reads [0xDD, 0x75, 0x85] (.ldIndXyR .ix 0x85 .l) &&
      reads [0xFD, 0x84] (.addAXyHalf .iy .high) &&
      reads [0xDD, 0x86, 0x85] (.addAIndXy .ix 0x85) &&
      reads [0xFD, 0x8D] (.adcAXyHalf .iy .low) &&
      reads [0xDD, 0x8E, 0x85] (.adcAIndXy .ix 0x85) &&
      reads [0xFD, 0x94] (.subXyHalf .iy .high) &&
      reads [0xDD, 0x96, 0x85] (.subIndXy .ix 0x85) &&
      reads [0xFD, 0x9D] (.sbcAXyHalf .iy .low) &&
      reads [0xDD, 0x9E, 0x85] (.sbcAIndXy .ix 0x85) &&
      reads [0xFD, 0xA4] (.andXyHalf .iy .high)) = true := by
  decide

theorem test_decode_xy_3 :
    (reads [0xDD, 0xA6, 0x85] (.andIndXy .ix 0x85) &&
      reads [0xFD, 0xAD] (.xorXyHalf .iy .low) &&
      reads [0xDD, 0xAE, 0x85] (.xorIndXy .ix 0x85) &&
      reads [0xFD, 0xB4] (.orXyHalf .iy .high) &&
      reads [0xDD, 0xB6, 0x85] (.orIndXy .ix 0x85) &&
      reads [0xFD, 0xBD] (.cpXyHalf .iy .low) &&
      reads [0xDD, 0xBE, 0x85] (.cpIndXy .ix 0x85) &&
      reads [0xFD, 0xE1] (.popXy .iy) &&
      reads [0xDD, 0xE9] (.jpXy .ix) &&
      reads [0xFD, 0xF9] (.ldSpXy .iy) &&
      reads [0xDD, 0xE3] (.exSpXy .ix) &&
      reads [0xFD, 0xE5] (.pushXy .iy)) = true := by
  decide

theorem test_decode_xy_4 :
    (reads [0xDD, 0x41] (.unaffected .ix (.ldRR .b .c))) = true := by
  decide

theorem test_decode_xycb_1 :
    (reads [0xDD, 0xCB, 0x85, 0x06] (.rlcIndXy .ix 0x85) &&
      reads [0xFD, 0xCB, 0x85, 0x05] (.rlcIndXyR .iy 0x85 .l) &&
      reads [0xDD, 0xCB, 0x85, 0x0E] (.rrcIndXy .ix 0x85) &&
      reads [0xFD, 0xCB, 0x85, 0x09] (.rrcIndXyR .iy 0x85 .c) &&
      reads [0xDD, 0xCB, 0x85, 0x16] (.rlIndXy .ix 0x85) &&
      reads [0xFD, 0xCB, 0x85, 0x17] (.rlIndXyR .iy 0x85 .a) &&
      reads [0xDD, 0xCB, 0x85, 0x1E] (.rrIndXy .ix 0x85) &&
      reads [0xFD, 0xCB, 0x85, 0x1A] (.rrIndXyR .iy 0x85 .d) &&
      reads [0xDD, 0xCB, 0x85, 0x26] (.slaIndXy .ix 0x85) &&
      reads [0xFD, 0xCB, 0x85, 0x20] (.slaIndXyR .iy 0x85 .b) &&
      reads [0xDD, 0xCB, 0x85, 0x2E] (.sraIndXy .ix 0x85) &&
      reads [0xFD, 0xCB, 0x85, 0x2D] (.sraIndXyR .iy 0x85 .l)) = true := by
  decide

theorem test_decode_xycb_2 :
    (reads [0xDD, 0xCB, 0x85, 0x36] (.sllIndXy .ix 0x85) &&
      reads [0xFD, 0xCB, 0x85, 0x31] (.sllIndXyR .iy 0x85 .c) &&
      reads [0xDD, 0xCB, 0x85, 0x3E] (.srlIndXy .ix 0x85) &&
      reads [0xFD, 0xCB, 0x85, 0x3F] (.srlIndXyR .iy 0x85 .a) &&
      reads [0xDD, 0xCB, 0x85, 0x76] (.bitBIndXy .ix 0x85 6) &&
      reads [0xFD, 0xCB, 0x85, 0x73] (.bitBIndXyAlias .iy 0x85 6 3) &&
      reads [0xDD, 0xCB, 0x85, 0xB6] (.resBIndXy .ix 0x85 6) &&
      reads [0xFD, 0xCB, 0x85, 0xB0] (.resBIndXyR .iy 0x85 6 .b) &&
      reads [0xDD, 0xCB, 0x85, 0xF6] (.setBIndXy .ix 0x85 6) &&
      reads [0xFD, 0xCB, 0x85, 0xF5] (.setBIndXyR .iy 0x85 6 .l)) = true := by
  decide

/-! ### One step, from the vectors of spec/95_test_vectors.md -/

/-- The start state of the vectors. -/
def start : State := { State.reset with pc := 0x0100, sp := 0x8000 }

/-- An operation in which the host only answers, from memory. -/
def quiet : Callback := { answer := none, acts := [] }

/-- An operation in which the host only answers, this. -/
def answers (n : Nat) : Callback := { answer := some n, acts := [] }

/-- An operation in which the host answers from memory and does these things. -/
def does (xs : List HostAct) : Callback := { answer := none, acts := xs }

/-- The step of the bytes placed at PC, in an index mode, answers a state with a property. -/
def after (xy : Option Index) (bytes : List Byte) (s : State) (p : State → Bool) : Bool :=
  match step { s with toShared := s.pokes s.pc bytes, xyMode := xy, intDefer := xy.isSome } with
  | .next t => p t
  | .fault _ => false
  | .refused _ => false

/-- T40.1: LD B,C. -/
theorem test_T40_1 :
    after none [0x41] { start with c := 0x5A }
      (fun t => t.f == 0x40 && t.bc == 0x5A5A && t.pc == 0x0101 && t.cost == 4) = true := by
  decide

/-- T40.3: LD H,(HL): address uses the old HL. -/
theorem test_T40_3 :
    after none [0x66] (setMemory 0x2000 0x9C { start with h := 0x20, l := 0x00 })
      (fun t => t.f == 0x40 && t.hl == 0x9C00 && t.pc == 0x0101 && t.cost == 7) = true := by
  decide

/-- T40.4: LD A,(IX−2): address wraps below 0 to 0xFFFF. -/
theorem test_T40_4 :
    after (some .ix) [0x7E, 0xFE] (setMemory 0xFFFF 0x77 { start with pc := 0x0101, ix := 0x0001 })
      (fun t => t.f == 0x40 && t.a == 0x77 && t.pc == 0x0103 && t.cost == 15) = true := by
  decide

/-- T40.5: LD (IY+127),L: wraps above 0xFFFF to 0x006F. -/
theorem test_T40_5 :
    after (some .iy) [0x75, 0x7F] { start with pc := 0x0101, iy := 0xFFF0, h := 0x12, l := 0xAB }
      (fun t => t.f == 0x40 && t.pc == 0x0103 && t.peek 0x006F == 0xAB && t.cost == 15) = true := by
  decide

/-- T40.8: LD (IX+5),n: d is fetched before n. -/
theorem test_T40_8 :
    after (some .ix) [0x36, 0x05, 0x99] { start with pc := 0x0101, ix := 0x4000 }
      (fun t => t.f == 0x40 && t.pc == 0x0104 && t.peek 0x4005 == 0x99 && t.cost == 15) = true := by
  decide

/-- T40.11: LD A,(nn): operand low byte first. -/
theorem test_T40_11 :
    after none [0x3A, 0x34, 0x12] (setMemory 0x1234 0xE1 start)
      (fun t => t.f == 0x40 && t.a == 0xE1 && t.pc == 0x0103 && t.cost == 13) = true := by
  decide

/-- T40.12: LD (nn),A. -/
theorem test_T40_12 :
    after none [0x32, 0xFF, 0xFF] { start with a := 0x81 }
      (fun t => t.f == 0x40 && t.pc == 0x0103 && t.peek 0xFFFF == 0x81 && t.cost == 13) = true := by
  decide

/-- T40.13: LD A,I: S from I, PV = IFF2, C kept. -/
theorem test_T40_13 :
    after none [0xED, 0x57] { start with i := 0x80, iff2 := true, f := 0x01 }
      (fun t => t.f == 0x85 && t.a == 0x80 && t.pc == 0x0102 && t.cost == 9) = true := by
  decide

/-- T40.15: LD A,R: R.count wrapped 0x7F→0x01 by the two fetches, bit 7 kept. -/
theorem test_T40_15 :
    after none [0xED, 0x5F] { start with rCount := 127, rB7 := 1, iff2 := true }
      (fun t => t.f == 0x84 && t.a == 0x81 && t.pc == 0x0102 && t.rValue == 0x81 && t.cost == 9) = true := by
  decide

/-- T40.16: LD R,A: written after the two increments. -/
theorem test_T40_16 :
    after none [0xED, 0x4F] { start with a := 0x80 }
      (fun t => t.f == 0x40 && t.pc == 0x0102 && t.rValue == 0x80 && t.cost == 9) = true := by
  decide

/-- T40.19: LD IXL,IXH. -/
theorem test_T40_19 :
    after (some .ix) [0x6C] { start with pc := 0x0101, ix := 0xABCD }
      (fun t => t.f == 0x40 && t.ix == 0xABAB && t.pc == 0x0102 && t.cost == 4) = true := by
  decide

/-- T41.1: LD BC,nn. -/
theorem test_T41_1 :
    after none [0x01, 0x34, 0x12] start
      (fun t => t.f == 0x40 && t.bc == 0x1234 && t.pc == 0x0103 && t.cost == 10) = true := by
  decide

/-- T41.4: LD HL,(0xFFFF): second byte from 0x0000. -/
theorem test_T41_4 :
    after none [0x2A, 0xFF, 0xFF] (setMemory 0x0000 0x22 (setMemory 0xFFFF 0x11 start))
      (fun t => t.f == 0x40 && t.hl == 0x2211 && t.pc == 0x0103 && t.cost == 16) = true := by
  decide

/-- T41.6: LD HL,(nn), ED form, 20 T. -/
theorem test_T41_6 :
    after none [0xED, 0x6B, 0x00, 0x20] (setMemory 0x2001 0x56 (setMemory 0x2000 0x78 start))
      (fun t => t.f == 0x40 && t.hl == 0x5678 && t.pc == 0x0104 && t.cost == 20) = true := by
  decide

/-- T41.9: LD (0xFFFF),SP: high byte to 0x0000. -/
theorem test_T41_9 :
    after none [0xED, 0x73, 0xFF, 0xFF] { start with sp := 0x1234 }
      (fun t => t.f == 0x40 && t.pc == 0x0104 && t.peek 0xFFFF == 0x34 && t.peek 0x0000 == 0x12 && t.cost == 20) = true := by
  decide

/-- T41.14: PUSH with SP=1: writes 0x0000 then 0xFFFF. -/
theorem test_T41_14 :
    after none [0xC5] { start with b := 0x12, c := 0x34, sp := 0x0001 }
      (fun t => t.f == 0x40 && t.sp == 0xFFFF && t.pc == 0x0101 && t.peek 0x0000 == 0x12 && t.peek 0xFFFF == 0x34 && t.cost == 11) = true := by
  decide

/-- T41.16: POP AF: all 8 bits of F loaded. -/
theorem test_T41_16 :
    after none [0xF1] (setMemory 0x7FFF 0x9A (setMemory 0x7FFE 0xFF { start with sp := 0x7FFE }))
      (fun t => t.f == 0xFF && t.sp == 0x8000 && t.a == 0x9A && t.pc == 0x0101 && t.cost == 10) = true := by
  decide

/-- T41.17: POP HL with SP=0xFFFF: wraps. -/
theorem test_T41_17 :
    after none [0xE1] (setMemory 0x0000 0x12 (setMemory 0xFFFF 0x34 { start with sp := 0xFFFF }))
      (fun t => t.f == 0x40 && t.hl == 0x1234 && t.sp == 0x0001 && t.pc == 0x0101 && t.cost == 10) = true := by
  decide

/-- T42.3: EX AF,AF': F changes because AF does. -/
theorem test_T42_3 :
    after none [0x08] { start with a := 0x12, f := 0xD7, af2 := 0x3400 }
      (fun t => t.f == 0x00 && t.af2 == 0x12D7 && t.a == 0x34 && t.pc == 0x0101 && t.cost == 4) = true := by
  decide

/-- T42.5: EX (SP),HL: read low, read high, write high, write low. -/
theorem test_T42_5 :
    after none [0xE3] (setMemory 0x7FFF 0xAB (setMemory 0x7FFE 0xCD { start with h := 0x12, l := 0x34, sp := 0x7FFE }))
      (fun t => t.f == 0x40 && t.hl == 0xABCD && t.pc == 0x0101 && t.peek 0x7FFF == 0x12 && t.peek 0x7FFE == 0x34 && t.cost == 19) = true := by
  decide

/-- T42.7: LDI, BC→0: PV=0. -/
theorem test_T42_7 :
    after none [0xED, 0xA0] (setMemory 0x2000 0x0A { start with h := 0x20, l := 0x00, d := 0x30, e := 0x00, b := 0x00, c := 0x01, a := 0x00, f := 0xFF })
      (fun t => t.f == 0xE9 && t.bc == 0x0000 && t.de == 0x3001 && t.hl == 0x2001 && t.pc == 0x0102 && t.peek 0x3000 == 0x0A && t.cost == 16) = true := by
  decide

/-- T42.9: LDIR first iteration: BC≠0 so PC set back to 0x0100, 21 T. -/
theorem test_T42_9 :
    after none [0xED, 0xB0] (setMemory 0x2001 0x22 (setMemory 0x2000 0x11 { start with h := 0x20, l := 0x00, d := 0x30, e := 0x00, b := 0x00, c := 0x02 }))
      (fun t => t.f == 0x44 && t.bc == 0x0001 && t.de == 0x3001 && t.hl == 0x2001 && t.pc == 0x0100 && t.peek 0x3000 == 0x11 && t.cost == 21) = true := by
  decide

/-- T42.11: LDIR with BC=0 moves 65536 bytes: after one step BC=0xFFFF and it repeats. -/
theorem test_T42_11 :
    after none [0xED, 0xB0] (setMemory 0x2000 0x11 { start with h := 0x20, l := 0x00, d := 0x30, e := 0x00, b := 0x00, c := 0x00 })
      (fun t => t.f == 0x44 && t.bc == 0xFFFF && t.de == 0x3001 && t.hl == 0x2001 && t.pc == 0x0100 && t.peek 0x3000 == 0x11 && t.cost == 21) = true := by
  decide

/-- T42.15: CPI: 0x10−0x01=0x0F, H=1, so Y/X from 0x0F−1=0x0E: Y=1 (bit 1), X=1 (bit 3). -/
theorem test_T42_15 :
    after none [0xED, 0xA1] (setMemory 0x2000 0x01 { start with a := 0x10, h := 0x20, l := 0x00, b := 0x00, c := 0x05, f := 0x00 })
      (fun t => t.f == 0x3E && t.bc == 0x0004 && t.hl == 0x2001 && t.pc == 0x0102 && t.cost == 16) = true := by
  decide

/-- T42.17: CPIR exhausts BC without match: Z=0, PV=0, 16 T. -/
theorem test_T42_17 :
    after none [0xED, 0xB1] (setMemory 0x2000 0x11 { start with a := 0x99, h := 0x20, l := 0x00, b := 0x00, c := 0x01 })
      (fun t => t.f == 0x8A && t.bc == 0x0000 && t.hl == 0x2001 && t.pc == 0x0102 && t.cost == 16) = true := by
  decide

/-- T42.18: CPD: HL wraps 0→0xFFFF. -/
theorem test_T42_18 :
    after none [0xED, 0xA9] (setMemory 0x0000 0x01 { start with a := 0x00, h := 0x00, l := 0x00, b := 0x00, c := 0x02 })
      (fun t => t.f == 0xBE && t.bc == 0x0001 && t.hl == 0xFFFF && t.pc == 0x0102 && t.cost == 16) = true := by
  decide

/-- T43.1: ADD A,B: signed overflow, half carry. -/
theorem test_T43_1 :
    after none [0x80] { start with a := 0x7F, b := 0x01 }
      (fun t => t.f == 0x94 && t.a == 0x80 && t.pc == 0x0101 && t.cost == 4) = true := by
  decide

/-- T43.4: ADC A,0xFF with C=1: result 0, C=1, H=1, no overflow. -/
theorem test_T43_4 :
    after none [0xCE, 0xFF] { start with a := 0x00, f := 0x01 }
      (fun t => t.f == 0x51 && t.pc == 0x0102 && t.cost == 7) = true := by
  decide

/-- T43.5: SUB B: 0x80−1 overflows to 0x7F. -/
theorem test_T43_5 :
    after none [0x90] { start with a := 0x80, b := 0x01 }
      (fun t => t.f == 0x3E && t.a == 0x7F && t.pc == 0x0101 && t.cost == 4) = true := by
  decide

/-- T43.6: SBC A,0 with C=1: 0xFF, borrow. -/
theorem test_T43_6 :
    after none [0xDE, 0x00] { start with a := 0x00, f := 0x01 }
      (fun t => t.f == 0xBB && t.a == 0xFF && t.pc == 0x0102 && t.cost == 7) = true := by
  decide

/-- T43.8: AND B: H=1. -/
theorem test_T43_8 :
    after none [0xA0] { start with a := 0xF0, b := 0x3C }
      (fun t => t.f == 0x34 && t.a == 0x30 && t.pc == 0x0101 && t.cost == 4) = true := by
  decide

/-- T43.9: XOR A: 0, Z and PV set, all else clear. -/
theorem test_T43_9 :
    after none [0xAF] { start with a := 0x5A, f := 0xFF }
      (fun t => t.f == 0x44 && t.a == 0x00 && t.pc == 0x0101 && t.cost == 4) = true := by
  decide

/-- T43.10: OR (IX+16). -/
theorem test_T43_10 :
    after (some .ix) [0xB6, 0x10] (setMemory 0x2010 0x80 { start with pc := 0x0101, a := 0x01, ix := 0x2000 })
      (fun t => t.f == 0x84 && t.a == 0x81 && t.pc == 0x0103 && t.cost == 15) = true := by
  decide

/-- T43.11: CP 0x28: equal, Z=1. -/
theorem test_T43_11 :
    after none [0xFE, 0x28] { start with a := 0x28 }
      (fun t => t.f == 0x6A && t.pc == 0x0102 && t.cost == 7) = true := by
  decide

/-- T43.13: ADD A,IXH (undocumented). -/
theorem test_T43_13 :
    after (some .ix) [0x84] { start with pc := 0x0101, a := 0x10, ix := 0x2233 }
      (fun t => t.f == 0x20 && t.a == 0x32 && t.pc == 0x0102 && t.cost == 4) = true := by
  decide

/-- T43.15: INC B: 0x7F→0x80 overflow. -/
theorem test_T43_15 :
    after none [0x04] { start with b := 0x7F, f := 0x01 }
      (fun t => t.f == 0x95 && t.bc == 0x8000 && t.pc == 0x0101 && t.cost == 4) = true := by
  decide

/-- T43.18: DEC (IY−1): 0→0xFF. -/
theorem test_T43_18 :
    after (some .iy) [0x35, 0xFF] (setMemory 0x2000 0x00 { start with pc := 0x0101, iy := 0x2001, f := 0x01 })
      (fun t => t.f == 0xBB && t.pc == 0x0103 && t.peek 0x2000 == 0xFF && t.cost == 19) = true := by
  decide

/-- T43.19: INC IXL: no carry into IXH. -/
theorem test_T43_19 :
    after (some .ix) [0x2C] { start with pc := 0x0101, ix := 0x12FF }
      (fun t => t.f == 0x50 && t.ix == 0x1200 && t.pc == 0x0102 && t.cost == 4) = true := by
  decide

/-- T44.1: DAA after 0x15+0x27: 0x42. -/
theorem test_T44_1 :
    after none [0x27] { start with a := 0x3C, f := 0x00 }
      (fun t => t.f == 0x14 && t.a == 0x42 && t.pc == 0x0101 && t.cost == 4) = true := by
  decide

/-- T44.4: DAA with N=1, H=1 and A above 0x99: subtract 0x66, C set. -/
theorem test_T44_4 :
    after none [0x27] { start with a := 0xFA, f := 0x12 }
      (fun t => t.f == 0x83 && t.a == 0x94 && t.pc == 0x0101 && t.cost == 4) = true := by
  decide

/-- T44.8: NEG 0x80: stays 0x80, PV=1, C=1. -/
theorem test_T44_8 :
    after none [0xED, 0x44] { start with a := 0x80 }
      (fun t => t.f == 0x87 && t.pc == 0x0102 && t.cost == 8) = true := by
  decide

/-- T44.10: NEG alias ED 7C. -/
theorem test_T44_10 :
    after none [0xED, 0x7C] { start with a := 0x01 }
      (fun t => t.f == 0xBB && t.a == 0xFF && t.pc == 0x0102 && t.cost == 8) = true := by
  decide

/-- T44.11: CCF with C=1: C→0, H←old C. -/
theorem test_T44_11 :
    after none [0x3F] { start with a := 0x28, f := 0x01 }
      (fun t => t.f == 0x38 && t.pc == 0x0101 && t.cost == 4) = true := by
  decide

/-- T44.12: CCF with C=0: C→1, H=0. -/
theorem test_T44_12 :
    after none [0x3F] { start with a := 0x00, f := 0xFE }
      (fun t => t.f == 0xC5 && t.pc == 0x0101 && t.cost == 4) = true := by
  decide

/-- T44.13: SCF. -/
theorem test_T44_13 :
    after none [0x37] { start with a := 0xFF, f := 0x12 }
      (fun t => t.f == 0x29 && t.pc == 0x0101 && t.cost == 4) = true := by
  decide

/-- T44.15: HALT: HALT=1 and PC back on the HALT byte. -/
theorem test_T44_15 :
    after none [0x76] start
      (fun t => t.f == 0x40 && t.halt && t.pc == 0x0100 && t.cost == 4) = true := by
  decide

/-- T44.18: EI: both flip-flops set, INTDEFER set. -/
theorem test_T44_18 :
    after none [0xFB] start
      (fun t => t.f == 0x40 && t.iff1 && t.iff2 && t.intDefer && t.pc == 0x0101 && t.cost == 4) = true := by
  decide

/-- T44.22: ED 4E: alias of IM 0. -/
theorem test_T44_22 :
    after none [0xED, 0x4E] { start with im := .im1 }
      (fun t => t.f == 0x40 && t.im == .im0 && t.pc == 0x0102 && t.cost == 8) = true := by
  decide

/-- T44.24: ED 00: no-op, 8 T, R+2. -/
theorem test_T44_24 :
    after none [0xED, 0x00] { start with a := 0x12 }
      (fun t => t.f == 0x40 && t.pc == 0x0102 && t.cost == 8) = true := by
  decide

/-- T44.27: DD alone: one step, XYMODE=IX and INTDEFER set, PREPC=0x0100. -/
theorem test_T44_27 :
    after none [0xDD] start
      (fun t => t.f == 0x40 && t.intDefer && t.xyMode == some .ix && t.pc == 0x0101 && t.cost == 4) = true := by
  decide

/-- T45.1: ADD HL,BC: H from bit 11. -/
theorem test_T45_1 :
    after none [0x09] { start with h := 0x0F, l := 0xFF, b := 0x00, c := 0x01, f := 0xC4 }
      (fun t => t.f == 0xD4 && t.hl == 0x1000 && t.pc == 0x0101 && t.cost == 11) = true := by
  decide

/-- T45.4: ADC HL,DE: 0xFFFF+0+1 = 0: Z, H, C. -/
theorem test_T45_4 :
    after none [0xED, 0x5A] { start with h := 0xFF, l := 0xFF, d := 0x00, e := 0x00, f := 0x01 }
      (fun t => t.f == 0x51 && t.hl == 0x0000 && t.pc == 0x0102 && t.cost == 15) = true := by
  decide

/-- T45.6: SBC HL,BC: 0−1 = 0xFFFF. -/
theorem test_T45_6 :
    after none [0xED, 0x42] { start with h := 0x00, l := 0x00, b := 0x00, c := 0x01, f := 0x00 }
      (fun t => t.f == 0xBB && t.hl == 0xFFFF && t.pc == 0x0102 && t.cost == 15) = true := by
  decide

/-- T45.10: ADD IY,SP. -/
theorem test_T45_10 :
    after (some .iy) [0x39] { start with pc := 0x0101, iy := 0x0001, sp := 0xFFFF }
      (fun t => t.f == 0x51 && t.iy == 0x0000 && t.pc == 0x0102 && t.cost == 11) = true := by
  decide

/-- T45.12: INC BC: wraps, no flag changes. -/
theorem test_T45_12 :
    after none [0x03] { start with b := 0xFF, c := 0xFF, f := 0x00 }
      (fun t => t.f == 0x00 && t.bc == 0x0000 && t.pc == 0x0101 && t.cost == 6) = true := by
  decide

/-- T46.1: RLCA: S, Z, PV kept. -/
theorem test_T46_1 :
    after none [0x07] { start with a := 0x81, f := 0xC4 }
      (fun t => t.f == 0xC5 && t.a == 0x03 && t.pc == 0x0101 && t.cost == 4) = true := by
  decide

/-- T46.4: RRA: old C enters bit 7. -/
theorem test_T46_4 :
    after none [0x1F] { start with a := 0x00, f := 0x01 }
      (fun t => t.f == 0x00 && t.a == 0x80 && t.pc == 0x0101 && t.cost == 4) = true := by
  decide

/-- T46.6: RRC (HL). -/
theorem test_T46_6 :
    after none [0xCB, 0x0E] (setMemory 0x2000 0x01 { start with h := 0x20, l := 0x00 })
      (fun t => t.f == 0x81 && t.pc == 0x0102 && t.peek 0x2000 == 0x80 && t.cost == 15) = true := by
  decide

/-- T46.8: RR (IX+2),B (undocumented): memory and B both written. -/
theorem test_T46_8 :
    after (some .ix) [0xCB, 0x02, 0x18] (setMemory 0x2002 0x03 { start with pc := 0x0101, ix := 0x2000, f := 0x00 })
      (fun t => t.f == 0x01 && t.bc == 0x0100 && t.pc == 0x0104 && t.peek 0x2002 == 0x01 && t.cost == 19) = true := by
  decide

/-- T46.10: SRA D: sign kept. -/
theorem test_T46_10 :
    after none [0xCB, 0x2A] { start with d := 0x81 }
      (fun t => t.f == 0x85 && t.de == 0xC000 && t.pc == 0x0102 && t.cost == 8) = true := by
  decide

/-- T46.11: SLL B (undocumented): bit 0 becomes 1. -/
theorem test_T46_11 :
    after none [0xCB, 0x30] { start with b := 0x80 }
      (fun t => t.f == 0x01 && t.bc == 0x0100 && t.pc == 0x0102 && t.cost == 8) = true := by
  decide

/-- T46.14: SRL (IY−1),H: copy goes to the real H. -/
theorem test_T46_14 :
    after (some .iy) [0xCB, 0xFF, 0x3C] (setMemory 0x2000 0xFE { start with pc := 0x0101, iy := 0x2001, h := 0x12, l := 0x34 })
      (fun t => t.f == 0x28 && t.hl == 0x7F34 && t.pc == 0x0104 && t.peek 0x2000 == 0x7F && t.cost == 19) = true := by
  decide

/-- T46.15: RLD. -/
theorem test_T46_15 :
    after none [0xED, 0x6F] (setMemory 0x2000 0x31 { start with a := 0x7A, h := 0x20, l := 0x00, f := 0x01 })
      (fun t => t.f == 0x21 && t.a == 0x73 && t.pc == 0x0102 && t.peek 0x2000 == 0x1A && t.cost == 18) = true := by
  decide

/-- T46.16: RRD. -/
theorem test_T46_16 :
    after none [0xED, 0x67] (setMemory 0x2000 0x20 { start with a := 0x84, h := 0x20, l := 0x00, f := 0x00 })
      (fun t => t.f == 0x80 && t.a == 0x80 && t.pc == 0x0102 && t.peek 0x2000 == 0x42 && t.cost == 18) = true := by
  decide

/-- T47.2: BIT 0,A: bit clear: Z and PV. -/
theorem test_T47_2 :
    after none [0xCB, 0x47] { start with a := 0xFE, f := 0x00 }
      (fun t => t.f == 0x7C && t.pc == 0x0102 && t.cost == 8) = true := by
  decide

/-- T47.4: BIT 3,(HL): bit set. -/
theorem test_T47_4 :
    after none [0xCB, 0x5E] (setMemory 0xFF00 0x08 { start with h := 0xFF, l := 0x00 })
      (fun t => t.f == 0x18 && t.pc == 0x0102 && t.cost == 12) = true := by
  decide

/-- T47.5: BIT 3,(IX+16): Y/X from the high byte of the address 0x2808. -/
theorem test_T47_5 :
    after (some .ix) [0xCB, 0x10, 0x5E] (setMemory 0x2808 0x08 { start with pc := 0x0101, ix := 0x27F8 })
      (fun t => t.f == 0x38 && t.pc == 0x0104 && t.cost == 16) = true := by
  decide

/-- T47.9: SET 7,(IY+0),C (undocumented). -/
theorem test_T47_9 :
    after (some .iy) [0xCB, 0x00, 0xF9] (setMemory 0x2000 0x01 { start with pc := 0x0101, iy := 0x2000 })
      (fun t => t.f == 0x40 && t.bc == 0x0081 && t.pc == 0x0104 && t.peek 0x2000 == 0x81 && t.cost == 19) = true := by
  decide

/-- T47.13: RES 7,(IX+0),H (undocumented): H is the real H. -/
theorem test_T47_13 :
    after (some .ix) [0xCB, 0x00, 0xBC] (setMemory 0x2000 0xFF { start with pc := 0x0101, ix := 0x2000, h := 0x00, l := 0x00 })
      (fun t => t.f == 0x40 && t.hl == 0x7F00 && t.pc == 0x0104 && t.peek 0x2000 == 0x7F && t.cost == 19) = true := by
  decide

/-- T48.1: JP nn. -/
theorem test_T48_1 :
    after none [0xC3, 0x34, 0x12] start
      (fun t => t.f == 0x40 && t.pc == 0x1234 && t.cost == 10) = true := by
  decide

/-- T48.3: JP Z not taken: both operand bytes still fetched. -/
theorem test_T48_3 :
    after none [0xCA, 0x34, 0x12] { start with f := 0x00 }
      (fun t => t.f == 0x00 && t.pc == 0x0103 && t.cost == 10) = true := by
  decide

/-- T48.7: JR −128: 0x0102−128. -/
theorem test_T48_7 :
    after none [0x18, 0x80] start
      (fun t => t.f == 0x40 && t.pc == 0x0082 && t.cost == 12) = true := by
  decide

/-- T48.9: JR NZ not taken: 7 T. -/
theorem test_T48_9 :
    after none [0x20, 0x10] { start with f := 0x40 }
      (fun t => t.f == 0x40 && t.pc == 0x0102 && t.cost == 7) = true := by
  decide

/-- T48.12: JP (IX). -/
theorem test_T48_12 :
    after (some .ix) [0xE9] { start with pc := 0x0101, ix := 0x5000, h := 0x40, l := 0x00 }
      (fun t => t.f == 0x40 && t.pc == 0x5000 && t.cost == 4) = true := by
  decide

/-- T48.14: DJNZ with B=0: B→0xFF, taken, 13 T. -/
theorem test_T48_14 :
    after none [0x10, 0xFE] { start with b := 0x00 }
      (fun t => t.f == 0x40 && t.bc == 0xFF00 && t.pc == 0x0100 && t.cost == 13) = true := by
  decide

/-- T48.15: CALL nn: return address 0x0103 pushed high byte first. -/
theorem test_T48_15 :
    after none [0xCD, 0x00, 0x20] start
      (fun t => t.f == 0x40 && t.sp == 0x7FFE && t.pc == 0x2000 && t.peek 0x7FFF == 0x01 && t.peek 0x7FFE == 0x03 && t.cost == 17) = true := by
  decide

/-- T48.16: CALL NZ not taken: 10 T, no push. -/
theorem test_T48_16 :
    after none [0xC4, 0x00, 0x20] { start with f := 0x40 }
      (fun t => t.f == 0x40 && t.pc == 0x0103 && t.cost == 10) = true := by
  decide

/-- T48.19: RET Z taken: 11 T. -/
theorem test_T48_19 :
    after none [0xC8] (setMemory 0x7FFF 0x01 (setMemory 0x7FFE 0x03 { start with f := 0x40, sp := 0x7FFE }))
      (fun t => t.f == 0x40 && t.sp == 0x8000 && t.pc == 0x0103 && t.cost == 11) = true := by
  decide

/-- T48.21: RETI: IFF1←IFF2. -/
theorem test_T48_21 :
    after none [0xED, 0x4D] (setMemory 0x7FFF 0x01 (setMemory 0x7FFE 0x03 { start with iff1 := false, iff2 := true, sp := 0x7FFE }))
      (fun t => t.f == 0x40 && t.sp == 0x8000 && t.iff1 && t.pc == 0x0103 && t.cost == 14) = true := by
  decide

/-- T48.25: RST 0 at 0xFFFF: return address 0x0000 pushed. -/
theorem test_T48_25 :
    after none [0xC7] { start with pc := 0xFFFF }
      (fun t => t.f == 0x40 && t.sp == 0x7FFE && t.pc == 0x0000 && t.peek 0x7FFF == 0x00 && t.peek 0x7FFE == 0x00 && t.cost == 11) = true := by
  decide

/-- T49.1: IN A,(n): port = A:n. -/
theorem test_T49_1 :
    after none [0xDB, 0x34] { start with a := 0x12, f := 0x00, host := [quiet, quiet, answers 0x00] }
      (fun t => t.f == 0x00 && t.a == 0x00 && t.pc == 0x0102 && t.bus.contains (.portRead 0x1234 0x00) && t.cost == 11) = true := by
  decide

/-- T49.4: ED 70, IN (C): flags only, nothing stored. -/
theorem test_T49_4 :
    after none [0xED, 0x70] { start with b := 0x12, c := 0x34, f := 0x00, host := [quiet, quiet, answers 0x80] }
      (fun t => t.f == 0x80 && t.pc == 0x0102 && t.bus.contains (.portRead 0x1234 0x80) && t.cost == 12) = true := by
  decide

/-- T49.5: INI: port uses B before the decrement. -/
theorem test_T49_5 :
    after none [0xED, 0xA2] { start with b := 0x01, c := 0x34, h := 0x20, l := 0x00, f := 0x00, host := [quiet, quiet, answers 0x7F] }
      (fun t => t.f == 0x40 && t.bc == 0x0034 && t.hl == 0x2001 && t.pc == 0x0102 && t.peek 0x2000 == 0x7F && t.bus.contains (.portRead 0x0134 0x7F) && t.cost == 16) = true := by
  decide

/-- T49.7: IND with B=0: B→0xFF. -/
theorem test_T49_7 :
    after none [0xED, 0xAA] { start with b := 0x00, c := 0x34, h := 0x00, l := 0x00, host := [quiet, quiet, answers 0xFF] }
      (fun t => t.f == 0xBB && t.bc == 0xFF34 && t.hl == 0xFFFF && t.pc == 0x0102 && t.peek 0x0000 == 0xFF && t.bus.contains (.portRead 0x0034 0xFF) && t.cost == 16) = true := by
  decide

/-- T49.9: OUT (n),A: port = A:n. -/
theorem test_T49_9 :
    after none [0xD3, 0x34] { start with a := 0x12 }
      (fun t => t.f == 0x40 && t.pc == 0x0102 && t.bus.getLast? == some (.portWrite 0x1234 0x12) && t.cost == 11) = true := by
  decide

/-- T49.11: ED 71, OUT (C),0. -/
theorem test_T49_11 :
    after none [0xED, 0x71] { start with b := 0x12, c := 0x34 }
      (fun t => t.f == 0x40 && t.pc == 0x0102 && t.bus.getLast? == some (.portWrite 0x1234 0x00) && t.cost == 12) = true := by
  decide

/-- T49.12: OUTI: port uses B after the decrement. -/
theorem test_T49_12 :
    after none [0xED, 0xA3] (setMemory 0x2000 0x80 { start with b := 0x02, c := 0x34, h := 0x20, l := 0x00, f := 0x00 })
      (fun t => t.f == 0x06 && t.bc == 0x0134 && t.hl == 0x2001 && t.pc == 0x0102 && t.bus.getLast? == some (.portWrite 0x0134 0x80) && t.cost == 16) = true := by
  decide

/-- T49.13: OTIR last iteration: L wraps to 0 so k=0x01. -/
theorem test_T49_13 :
    after none [0xED, 0xB3] (setMemory 0x20FF 0x01 { start with b := 0x01, c := 0x34, h := 0x20, l := 0xFF })
      (fun t => t.f == 0x40 && t.bc == 0x0034 && t.hl == 0x2100 && t.pc == 0x0102 && t.bus.getLast? == some (.portWrite 0x0034 0x01) && t.cost == 16) = true := by
  decide

/-! ### Flag tables, from the examples of R60 to R64 -/

theorem test_R60_sz : sz 0x00 = 0x40 ∧ sz 0x80 = 0x80 ∧ sz 0x28 = 0x28 ∧ sz 0xFF = 0xA8 := by decide

theorem test_R61_sz_bit : szBit 0x00 = 0x44 ∧ szBit 0x80 = 0x80 ∧ szBit 0x28 = 0x00 := by decide

theorem test_R62_szp : szp 0x00 = 0x44 ∧ szp 0x01 = 0x00 ∧ szp 0x03 = 0x04 ∧ szp 0xFF = 0xAC ∧ szp 0x80 = 0x80 := by decide

theorem test_R63_szhv_inc :
    szhvInc 0x00 = 0x50 ∧ szhvInc 0x80 = 0x94 ∧ szhvInc 0x10 = 0x10 ∧ szhvInc 0x01 = 0x00 := by
  decide

theorem test_R64_szhv_dec :
    szhvDec 0x00 = 0x42 ∧ szhvDec 0x7F = 0x3E ∧ szhvDec 0xFF = 0xBA ∧ szhvDec 0x0F = 0x1A := by
  decide

/-! ### Interrupts, from the vectors of part C -/

/-- The start state of T60.6 to T60.9: the line asserted and interrupts enabled. -/
def startIrq : State := { start with pc := 0x1234, iff1 := true, iff2 := true, irqLine := true }

/-- The next step of a state answers a state with a property. -/
def stepped (s : State) (p : State → Bool) : Bool :=
  match step s with
  | .next t => p t
  | .fault _ => false
  | .refused _ => false

/-- T60.1, step 2: an NMI keeps IFF2 and enters 0066. -/
theorem test_T60_1_nmi :
    stepped (setNmiLine true { start with pc := 0x0101, iff1 := true, iff2 := true })
      (fun t => t.pc == 0x0066 && t.sp == 0x7FFE && !t.iff1 && t.iff2 && t.cost == 11 &&
        t.bus == [.memWrite 0x7FFF 0x01, .memWrite 0x7FFE 0x01]) = true := by
  decide

/-- T60.5, step 1: the NMI comes before the maskable interrupt. -/
theorem test_T60_5_nmi_first :
    stepped { startIrq with im := .im1, nmiPending := true } (fun t => t.pc == 0x0066 && t.irqLine) = true := by
  decide

/-- T60.6: a datum with 0xCD on top is a call. -/
theorem test_T60_6_call :
    stepped { startIrq with host := [answers 0xCD4567] }
      (fun t => t.pc == 0x4567 && t.sp == 0x7FFE && t.cost == 19 && !t.iff1 && !t.iff2 &&
        t.bus == [.irqAck 0 0xCD4567, .memWrite 0x7FFF 0x12, .memWrite 0x7FFE 0x34]) = true := by
  decide

/-- T60.6: a datum with 0xC3 on top is a jump. -/
theorem test_T60_6_jump :
    stepped { startIrq with host := [answers 0xC34567] } (fun t => t.pc == 0x4567 && t.sp == 0x8000 && t.cost == 12) = true := by
  decide

/-- T60.6: any other datum is a restart, here wider than 24 bits. -/
theorem test_T60_6_restart :
    stepped { startIrq with host := [answers 0xAB0000FF] } (fun t => t.pc == 0x0038 && t.sp == 0x7FFE && t.cost == 13) = true := by
  decide

/-- T60.8: mode 2 with an odd vector at the top of memory. -/
theorem test_T60_8_mode2 :
    stepped (setMemory 0x0000 0x40 (setMemory 0xFFFF 0x00 { startIrq with im := .im2, i := 0xFF, host := [answers 0xFF] }))
      (fun t => t.pc == 0x4000 && t.cost == 19 &&
        t.bus == [.irqAck 0 0xFF, .memWrite 0x7FFF 0x12, .memWrite 0x7FFE 0x34, .memRead .data 0xFFFF 0x00,
          .memRead .data 0x0000 0x40]) = true := by
  decide

/-- T60.9: the push precedes the table read. -/
theorem test_T60_9_overlap :
    stepped { startIrq with sp := 0x8002, im := .im2, i := 0x80, host := [answers 0x00] } (fun t => t.pc == 0x1234) = true := by
  decide

/-- T60.10: a device of the chain is told, in mode 1 too, and its request is taken. -/
theorem test_T60_10_chain :
    stepped { startIrq with im := .im1, intState := [0x01], requestDev := some 0, host := [answers 0x77] }
      (fun t => t.pc == 0x0038 && t.requestDev == none && t.cost == 13 &&
        t.bus == [.deviceEntry 0 0x77, .memWrite 0x7FFF 0x12, .memWrite 0x7FFE 0x34]) = true := by
  decide

/-- T60.10, the report before it: a request of device 0 is granted. -/
theorem test_T60_10_report :
    ((setIrqLine 0 true (some (0, 0x01)) { start with intState := [0x00] }).map fun t => t.requestDev) =
      some (some 0) := by
  decide

/-- T60.13: INTDEFER holds an NMI off for one step. -/
theorem test_T60_13_deferred_nmi :
    after none [0x00] { start with intDefer := true, nmiPending := true } (fun t => t.pc == 0x0066) = true := by
  decide

/-- T44.16: a halted cycle reads the byte at PC and does nothing else but refresh. -/
theorem test_T44_16_halted_cycle :
    stepped (setMemory 0x0100 0x76 { start with halt := true })
      (fun t => t.halt && t.pc == 0x0100 && t.rCount == 1 && t.cost == 4 && t.bus == [.memRead .opcode 0x0100 0x76]) = true := by
  decide

/-! ### What the host does inside an operation -/

/-- R114: between the two reads of `LD HL,(nn)` the host changes the second byte. -/
theorem test_R114_between_two_bytes :
    after none [0x2A, 0x00, 0x40] { start with host := [quiet, quiet, quiet, does [.setMemory 0x4001 0x12]] }
      (fun t => t.hl == 0x1200) = true := by
  decide

/-- R102: the opcode read is answered with another byte than the data read of the same address. -/
theorem test_R102_separate_fetch :
    after none [0x76] { start with h := 0x01, l := 0x00, host := [answers 0x7E, quiet] } (fun t => t.a == 0x76 && !t.halt) =
      true := by
  decide

/-- R558, R552: a line that `write_port` raises is recorded in the step and accepted at the start of the next. -/
theorem test_R558_line_raised_in_a_port_write :
    after none [0xD3, 0x10]
      { start with iff1 := true, im := .im1, host := [quiet, quiet, does [.setIrqLine 0 true none, .setNmiLine true]] }
      (fun t => t.irqLine && t.nmiPending && t.pc == 0x0102 && stepped { t with nmiPending := false } (fun u => u.pc == 0x0038)) =
      true := by
  decide

/-- R436, R501: a report made inside the second stack read of RETI decides which device it tells. -/
theorem test_R436_report_inside_reti :
    after none [0xED, 0x4D]
      { start with
        intState := [0x00, 0x02]
        serviceDev := some 1
        host := [quiet, quiet, quiet, does [.setIrqLine 0 true (some (0, 0x02))]] }
      (fun t => t.bus.getLast? == some (.deviceReti 0)) = true := by
  decide

/-- R540: a report made inside a device's reset is honoured. -/
theorem test_R540_report_inside_reset :
    ((resetDevices 0 2 { start.toShared with intState := [0, 0], host := [does [.setIrqLine 0 true (some (1, 0x01))]] }).requestDev,
      (resetDevices 0 2 { start.toShared with intState := [0, 0] }).bus) =
      (some 1, [.deviceReset 0, .deviceReset 1]) := by
  decide

/-! ### Witnesses -/

theorem witness_DecodeOfEncodeIsIdentity : (Instr.ldPP .iy .xh .b).wf = true ∧ (Instr.unaffected .ix .prefixIy).wf = true := by
  decide

theorem witness_PlacedTableWordIsRunNext :
    (16 ≤ 32 ∧ decodeTableWord 16 0xEDB0 = some .ldir) ∧
      32 ≤ 32 ∧ decodeTableWord 32 0xFDCBFF38 = some (.srlIndXyR .iy 0xFF .b) := by
  decide

/-- Bytes in memory and bytes the host answers; neither a halted state nor an acceptance: by INTDEFER, by IFF1, or by
the absence of a request. -/
theorem witness_StepRunsTheInstructionAtPc :
    (Instr.ldRN .a 0x05).wf = true ∧
    (∃ s : State, (Instr.ldRN .a 0x05).mode = s.xyMode ∧ s.PlainMemory ∧
      (∀ k (h : k < (Instr.ldRN .a 0x05).encodeOp.length),
        s.peek (s.pc + BitVec.ofNat 16 k) = (Instr.ldRN .a 0x05).encodeOp[k]) ∧
      s.halt = false ∧ s.NoAcceptance ∧ { s with iff1 := true }.NoAcceptance ∧
      { s with intDefer := true, nmiPending := true }.NoAcceptance) ∧
    { start with host := [answers 0x3E, answers 0x05] }.Fetches (.ldRN .a 0x05) :=
  ⟨rfl,
    ⟨setMemory 0x0101 0x05 (setMemory 0x0100 0x3E { start with host := [quiet] }), rfl, ⟨by decide, by decide⟩, by decide,
      rfl, Or.inr ⟨rfl, Or.inl rfl⟩, Or.inr ⟨rfl, Or.inr rfl⟩, Or.inl rfl⟩,
    by decide⟩

/-- After a prefix, with a chain of two devices, the lower one granted. -/
def chained : State :=
  { start with intState := [0x00, 0x01], requestDev := some 1, xyMode := some .ix, intDefer := true }

theorem chained_inv : chained.Inv :=
  ⟨rfl, fun _ => rfl, fun h => absurd h (by decide), Nat.le_trans (by decide) (Nat.le_add_left 3 Config.extraDaisy), rfl, Or.inr rfl⟩

theorem witness_StepKeepsTheInvariant : ∃ s t : State, s.Inv ∧ step s = .next t := ⟨chained, _, chained_inv, rfl⟩

/-- The same chain between execute calls: INTDEFER clear. -/
def idle : State := { start with intState := [0x00, 0x01], requestDev := some 1 }

theorem idle_inv : idle.Inv :=
  ⟨rfl, fun h => absurd rfl h, fun h => absurd h (by decide), Nat.le_trans (by decide) (Nat.le_add_left 3 Config.extraDaisy), rfl,
    Or.inr rfl⟩

theorem idle_context : ∃ t, importContext 2 (exportContext idle) idle = some t := by
  refine ⟨_, if_pos ?_⟩
  simp [Context.valid, exportContext, idle, Shared.nDev, Config.maxDaisy, firstIeo, firstGrant, devIeo, devReq, start,
    State.reset]

theorem witness_HostOperationsKeepTheInvariant :
    ∃ s : State, s.Inv ∧ s.intDefer = false ∧ (∃ t, hostReset 3 s = some t) ∧
      (∃ t, setIrqLine 0 true (some (0, 0x01)) s = some t) ∧ (∃ t, setRegister .halt 1 s = some t) ∧
      ∃ t, importContext 2 (exportContext s) s = some t :=
  ⟨idle, idle_inv, rfl, ⟨_, if_pos (Nat.le_add_left 3 Config.extraDaisy)⟩, ⟨_, rfl⟩, ⟨_, rfl⟩, idle_context⟩

theorem witness_HostResetConfiguresTheChain :
    3 ≤ Config.maxDaisy ∧ Config.maxDaisy < Config.maxDaisy + 1 ∧ { start with host := [quiet] }.HostKeepsLines ∧
      { start with host := [quiet] }.HostKeepsMemory :=
  ⟨Nat.le_add_left 3 Config.extraDaisy, Nat.lt_succ_self _, by decide, by decide⟩

/-- With the NMI latched while running and while halted, and with every interrupt disabled. -/
theorem witness_NmiAcceptance :
    ∃ s : State, s.intDefer = false ∧ s.nmiPending = true ∧ s.iff1 = false ∧ s.halt = true :=
  ⟨{ start with nmiPending := true, halt := true }, rfl, rfl, rfl, rfl⟩

/-- With the line, and with a chain whose device 1 is granted. -/
theorem witness_MaskableAcceptanceMode1 :
    (∃ s : State, s.AcceptsIrq ∧ s.im = .im1 ∧ s.nDev = 0) ∧
      ∃ s : State, s.AcceptsIrq ∧ s.im = .im1 ∧ s.nDev ≠ 0 ∧ s.requestDev = some 1 ∧ s.host = [answers 7] :=
  ⟨⟨{ startIrq with im := .im1 }, ⟨rfl, rfl, rfl, rfl⟩, rfl, rfl⟩,
    ⟨{ startIrq with im := .im1, intState := [0x00, 0x01], requestDev := some 1, host := [answers 7] }, ⟨rfl, rfl, rfl, rfl⟩,
      rfl, by decide, rfl, rfl⟩⟩

/-- With a datum of each of the three kinds. -/
theorem witness_MaskableAcceptanceMode0 :
    (∃ s : State, s.AcceptsIrq ∧ s.im = .im0 ∧ s.hearDatum = 0xCD4567 ∧ 0xCD4567 / 65536 % 256 = 0xCD) ∧
      (∃ s : State, s.AcceptsIrq ∧ s.im = .im0 ∧ s.hearDatum = 0xC34567 ∧ 0xC34567 / 65536 % 256 = 0xC3) ∧
      ∃ s : State, s.AcceptsIrq ∧ s.im = .im0 ∧ s.hearDatum = 0xFF ∧ s.nDev ≠ 0 :=
  ⟨⟨{ startIrq with host := [answers 0xCD4567] }, ⟨rfl, rfl, rfl, rfl⟩, rfl, rfl, by decide⟩,
    ⟨{ startIrq with host := [answers 0xC34567] }, ⟨rfl, rfl, rfl, rfl⟩, rfl, rfl, by decide⟩,
    ⟨{ startIrq with intState := [0x01], requestDev := some 0, host := [answers 0xFF] }, ⟨rfl, rfl, rfl, rfl⟩, rfl, rfl, by decide⟩⟩

theorem witness_MaskableAcceptanceMode2 :
    (∃ s : State, s.AcceptsIrq ∧ s.im = .im2 ∧ s.nDev = 0 ∧ s.hearDatum = 0xFF ∧
      (s.taken.after (s.ackEvs ++ s.pushEvs s.resumeAt)).PlainMemory) ∧
      ∃ s : State, s.AcceptsIrq ∧ s.im = .im2 ∧ s.nDev ≠ 0 ∧ s.halt = true :=
  ⟨⟨{ startIrq with im := .im2, host := [answers 0xFF] }, ⟨rfl, rfl, rfl, rfl⟩, rfl, rfl, rfl, by decide, by decide⟩,
    ⟨{ startIrq with im := .im2, intState := [0x01], requestDev := some 0, halt := true }, ⟨rfl, rfl, rfl, rfl⟩, rfl,
      by decide, rfl⟩⟩

/-- With R.count at its largest. -/
theorem witness_HaltedCycleOnlyRefreshes :
    ∃ s : State, s.halt = true ∧ s.NoAcceptance ∧ s.rCount = 127 :=
  ⟨{ start with halt := true, rCount := 127 }, rfl, Or.inr ⟨rfl, Or.inl rfl⟩, rfl⟩

theorem witness_NmiLineIsEdgeTriggered :
    start.nmiLine = false ∧ { start with nmiLine := true }.nmiLine = true ∧
      (∃ s : State, s.nmiPending = true ∧ s.intDefer = true ∧ (∃ t, step s = .next t) ∧ ∃ t, exec .nop s = .next t) ∧
      (∃ s : State, s.nmiPending = true ∧ s.intDefer = false ∧ s.HostKeepsLines ∧ ∃ t, step s = .next t) ∧
      ∃ s : State, s.nmiPending = false ∧ s.HostKeepsLines ∧ (∃ t, step s = .next t) ∧
        (∃ t, setIrqLine 0 true none s = some t) ∧ (∃ t, setRegister .pc 0 s = some t) ∧ (∃ t, hostReset 0 s = some t) ∧
        ∃ t, importContext 2 (exportContext idle) s = some t :=
  ⟨rfl, rfl, ⟨{ start with nmiPending := true, intDefer := true }, rfl, rfl, ⟨_, rfl⟩, ⟨_, rfl⟩⟩,
    ⟨{ start with nmiPending := true }, rfl, rfl, by decide, _, rfl⟩,
    ⟨idle, rfl, by decide, ⟨_, rfl⟩, ⟨_, rfl⟩, ⟨_, rfl⟩, ⟨_, if_pos (Nat.zero_le _)⟩, idle_context⟩⟩

/-- Without and with a chain; a device beyond it (the first such number), a state already stored, and a new one. -/
theorem witness_IrqLineAndStateReports :
    start.nDev = 0 ∧ idle.nDev ≠ 0 ∧ (1 : Nat) ≠ 0 ∧ idle.nDev ≤ 2 ∧ idle.intState[1]? = some 0x01 ∧ (0x01 : Byte) ≠ 0x02 := by
  decide

theorem witness_DeferredStepIgnoresInterrupts :
    ∃ s : State, s.intDefer = true ∧ s.iff1 = true ∧ s.nmiPending = true ∧ s.irqRequested = true ∧ s.HostKeepsLines :=
  ⟨{ startIrq with intDefer := true, nmiPending := true, host := [quiet] }, rfl, rfl, rfl, rfl, by decide⟩

/-- The host past the end of its list; silent; changing memory, answering, and calling a setter. -/
theorem witness_OperationsOnTheHost :
    start.host = [] ∧ { start with host := [quiet] }.PlainMemory ∧ { start with host := [quiet] }.HostKeepsMemory ∧
      (∃ s : State, ∃ c cs, s.host = c :: cs ∧ c.answer = some 5 ∧ c.acts = []) ∧
      ∃ s : State, ∃ c cs, s.host = c :: cs ∧ c.answer = none ∧ c.acts = [.setNmiLine true, .setMemory 0 1] :=
  ⟨rfl, ⟨by decide, by decide⟩, by decide, ⟨{ start with host := [answers 5] }, _, _, rfl, rfl, rfl⟩,
    ⟨{ start with host := [does [.setNmiLine true, .setMemory 0 1]] }, _, _, rfl, rfl, rfl⟩⟩

/-- A request below an idle device is granted; one below a device under service is not. -/
theorem witness_RecomputeGrantsTheFirstUnblockedRequest :
    idle.recompute.requestDev = some 1 ∧ { start with intState := [0x02, 0x01] }.recompute.requestDev = none ∧
      { start with intState := [0x02, 0x01] }.recompute.serviceDev = some 0 := by
  decide

theorem witness_MeaningsOnlyAddDataOperations : ∃ t, exec (.pushQq .af) start = .next t := ⟨_, rfl⟩

theorem witness_ShadowPairsAreOnlyExchanged :
    ∃ t, exec .exDeHl start = .next t ∧ Instr.core .exDeHl ≠ .exAfAf2 ∧ Instr.core .exDeHl ≠ .exx :=
  ⟨_, rfl, by decide, by decide⟩

/-- One instruction that is none of those named, and a host that calls no setter. -/
theorem witness_ControlStateIsChangedOnlyByItsInstructions :
    ∃ i : Instr, (∃ t, exec i start = .next t) ∧ start.HostKeepsLines ∧ (∀ y, i.core ≠ .retnAlias y ∧ i.core ≠ .im0Alias y) ∧
      ∀ j, j ∈ [Instr.ldIA, .ldRefA, .ei, .di, .retn, .reti, .im0, .im1, .im1Alias, .im2, .im2Alias, .halt, .prefixIx,
        .prefixIy] → i.core ≠ j := by
  refine ⟨.unaffected .ix .nop, ⟨_, rfl⟩, ?_⟩
  decide

theorem witness_MemoryAndPortsAreReachedOnlyByTheirInstructions :
    (∃ t, exec .nop start = .next t) ∧ start.HostKeepsMemory ∧ Instr.nop.storesMemory = false ∧
      Instr.nop.reachesPorts = false ∧ Instr.outC0.storesMemory = false ∧ (Instr.pushQq .bc).reachesPorts = false :=
  ⟨⟨_, rfl⟩, by decide, rfl, rfl, rfl, rfl⟩

theorem witness_FlagsAreKeptByEveryOtherInstruction :
    (Instr.popQq .hl).keepsFlags = true ∧ ∃ t, exec (.popQq .hl) start = .next t :=
  ⟨rfl, _, rfl⟩

theorem witness_StepCostIsBounded : ∃ t, step start = .next t := ⟨_, rfl⟩

/-- Digits at both ends of their range. -/
theorem witness_DecimalAdjustGivesDecimalArithmetic : isBcd 0x99 = true ∧ isBcd 0x00 = true := by decide

theorem witness_CallsAndRestarts : condHolds 0x40 .z = true ∧ condHolds 0x40 .nz = false := by decide

/-- RETI with a device under service, with a chain and none under service, and with no chain. -/
theorem witness_Returns :
    condHolds 0x40 .z = true ∧ condHolds 0x40 .nz = false ∧
      (∃ s : State, s.nDev ≠ 0 ∧ s.HostKeepsLines ∧ (s.after (s.reads16 s.sp)).serviceDev = some 0) ∧
      (∃ s : State, s.nDev ≠ 0 ∧ (s.after (s.reads16 s.sp)).serviceDev = none) ∧ ∃ s : State, s.nDev = 0 :=
  ⟨rfl, rfl, ⟨{ start with intState := [0x02], serviceDev := some 0 }, by decide, by decide, rfl⟩,
    ⟨idle, by decide, rfl⟩, start, rfl⟩

theorem witness_BlockInputsAndOutputs : ∃ v : Byte, v = { start with host := [answers 0x12] }.hearPort start.bc ∧ v = 0x12 :=
  ⟨_, rfl, rfl⟩

/-- A register of each kind of refusal and of acceptance, a device inside and outside the chain, and registers that
share a byte and that do not. -/
theorem witness_RegisterPortReadsBackWhatItWrote :
    portReadOnly .prepc = true ∧ 3 ≤ (3 : Word).toNat ∧ portReadOnly .im = false ∧ (2 : Word).toNat < 3 ∧
      portReadOnly .ixh = false ∧ idle.nDev ≤ 2 ∧ 1 < idle.intState.length ∧ idle.requestDev = some 1 ∧
      idle.serviceDev = none ∧ PortReg.a ∈ PortReg.af.parts ∧ (∀ x, x ∈ PortReg.bc.parts → x ∉ PortReg.af.parts) := by
  decide

/-- Two cores with the same number of devices, and two with different numbers. -/
theorem witness_ContextRoundTrip :
    idle.Inv ∧ { start with intState := [0x03, 0x00] }.nDev = idle.nDev ∧ start.nDev ≠ idle.nDev :=
  ⟨idle_inv, rfl, by decide⟩

/-! ### A run that does not return (R559) -/

/-- A memory full of EI (R559). -/
@[irreducible] def eiMemory : Memory := (List.range 65536).map fun k => (k, (0xFB : Byte))

theorem read_of_equal_cells (v : Byte) (a : Nat) : ∀ ks : List Nat, a ∈ ks → Memory.read (ks.map fun k => (k, v)) a = v
  | k :: ks, h => by
    rw [List.map_cons, Memory.read]
    split
    · rfl
    · rename_i ne
      exact read_of_equal_cells v a ks ((List.mem_cons.1 h).resolve_left fun e => ne e.symm)

theorem read_eiMemory (a : Word) : Memory.read eiMemory a.toNat = 0xFB := by
  unfold eiMemory
  exact read_of_equal_cells _ _ _ (List.mem_range.2 a.isLt)

/-- A state that has run EI, in front of a memory full of EI. -/
def EiForEver (s : State) : Prop :=
  s.mem = eiMemory ∧ s.host = [] ∧ s.intDefer = true ∧ s.halt = false ∧ s.xyMode = none

theorem step_eiForEver {s : State} (h : EiForEver s) : ∃ t, step s = .next t ∧ EiForEver t := by
  obtain ⟨hm, hh, hd, hl, hx⟩ := h
  have hn : nonInstructionStep s.beginStep = none := by simp [nonInstructionStep, State.beginStep, hd, hl]
  have hb : s.beginStep.endDefer.hear s.beginStep.endDefer.pc = 0xFB := by
    show Shared.hear { s.toShared with bus := [] } s.pc = _
    simp only [Shared.hear, Shared.callback, hh, List.headD_nil, Shared.peek, hm]
    exact read_eiMemory s.pc
  have hi : s.beginStep.endDefer.nextInstr = .ei := by
    rw [State.nextInstr, hb, show s.beginStep.endDefer.xyMode = none from hx]
    rfl
  rw [step_of_instruction hn, fetchInstr, hi]
  refine ⟨_, rfl, ?_⟩
  refine ⟨?_, ?_, rfl, hl, rfl⟩
  · show (Shared.perform { s.toShared with bus := [] } _).mem = _
    simp only [Shared.perform, Shared.callback, hh, List.headD_nil, List.foldl_nil]
    exact hm
  · show (Shared.perform { s.toShared with bus := [] } _).host = _
    simp only [Shared.perform, Shared.callback, hh, List.headD_nil, List.foldl_nil, List.tail_nil]

/-- R559: `execute` never answers from a memory full of EI. -/
theorem executeLoop_eiForEver (fuel : Nat) (rem : Int) {s : State} (h : EiForEver s) : executeLoop fuel rem s = none := by
  induction fuel generalizing rem s with
  | zero => rfl
  | succ fuel ih =>
    obtain ⟨t, ht, h'⟩ := step_eiForEver h
    rw [executeLoop, ht, h.2.2.1, Bool.or_true, Bool.true_or, if_pos rfl]
    exact ih _ h'

/-- A run that no fuel is enough for (R559). -/
theorem witness_ExecuteUsesItsBudget_noAnswer : ∃ s : State, ∀ fuel, execute fuel 1 s = none :=
  ⟨{ State.reset with mem := eiMemory, intDefer := true }, fun fuel => by
    rw [execute, executeLoop_eiForEver _ _ ⟨rfl, rfl, rfl, rfl, rfl⟩]
    rfl⟩

/-- A budget of 0; a run of one step that consumes 4 of a budget of 1; and a prefix, after which a latch is set. -/
theorem witness_ExecuteUsesItsBudget :
    ((0 : Int) ≤ 0 ∧ ¬start.Latched) ∧ (∃ c t, execute 2 1 start = some (c, t)) ∧
      (∃ k t, runFor 1 start = some (k, t) ∧ (1 : Int) ≤ (k : Int) ∧ ¬t.Latched) ∧
      ∃ s t : State, s.Inv ∧ step s = .next t ∧ t.Latched :=
  ⟨by decide, ⟨_, _, rfl⟩, ⟨_, _, rfl, by decide, by decide⟩,
    ⟨{ idle with host := [answers 0xFB] }, _, ⟨rfl, fun h => absurd rfl h, fun h => absurd h (by decide), idle_inv.chain, rfl,
      Or.inr rfl⟩, rfl, Or.inl rfl⟩⟩
end Sys2Proof.Tests
end

namespace Sys2Proof.Machine

/-! ### Every step completes -/

/-- R141: the fallen-through form dispatches to the base instruction's own meaning. -/
@[simp] theorem exec_unaffected (x : Index) (i : Instr) (s : State) : exec (.unaffected x i) s = exec i s := by
  cases i <;> rfl

/-- R431: whichever way the branch goes, DJNZ answers a next state. -/
theorem execDjnz_eq (e : Byte) (s : State) :
    execDjnz e s =
      .next (if s.b - 1 = 0 then (s.setB (s.b - 1)).charge 8
        else ((s.setB (s.b - 1)).setPc (s.pc + sext e)).charge 13) :=
  (apply_ite Host.Outcome.next _ _ _).symm

/-- Only two arms of the dispatch are not a next state on the face of their meaning: DJNZ, which answers one in either
branch, and the fallen-through form, which is the meaning of a smaller instruction. -/
theorem safe_exec (i : Instr) (s : State) : Safe (exec i s) := by
  induction i with
  | djnz e => exact ⟨_, execDjnz_eq e s⟩
  | unaffected x j ih => rwa [exec_unaffected]
  | _ => exact ⟨_, rfl⟩

theorem safe_step (s : State) : Safe (step s) := by
  cases h : nonInstructionStep s.beginStep with
  | some t => exact ⟨t, step_of_nonInstruction h⟩
  | none =>
    rw [step_of_instruction h]
    exact safe_exec _ _

/-- Settles O6: a step is either one that runs no instruction, which is a next state, or the meaning of an instruction,
which is a next state by induction on the instruction. -/
theorem everyStepCompletes : Obligations.EveryStepCompletes :=
  ⟨safe_step, safe_exec⟩

/-! ### The indexed address and the conditions -/

/-- R10, R138: sign extension reads the displacement as a signed number. -/
theorem sext_eq_ofInt (d : Byte) : sext d = BitVec.ofInt 16 d.toInt := rfl

theorem State.ea_eq_ofInt (s : State) (x : Index) (d : Byte) :
    s.ea x d = BitVec.ofInt 16 ((s.xy x).toNat + d.toInt) := by
  rw [State.ea, sext_eq_ofInt, BitVec.ofInt_add, BitVec.ofInt_natCast, BitVec.ofNat_toNat, BitVec.setWidth_eq]

/-- R136, R420: bits 2:1 of a condition's code choose the flag, bit 0 the value it must have. -/
theorem condHolds_ofCode (f : Byte) (c : Fin 8) :
    condHolds f (Cond.ofCode c) =
      ((if c.val / 2 = 0 then flagZ f else if c.val / 2 = 1 then flagC f else if c.val / 2 = 2 then flagPV f else flagS f)
        == decide (c.val % 2 = 1)) :=
  match c with
  | 0 | 2 | 4 | 6 => (beq_false _).symm
  | 1 | 3 | 5 | 7 => (beq_true _).symm

/-- Settles O31: sign extension makes the sum of R138 signed, and each of the eight codes tests its own flag. -/
theorem indexedAddressAndConditions : Obligations.IndexedAddressAndConditions :=
  ⟨State.ea_eq_ofInt, condHolds_ofCode⟩

end Sys2Proof.Machine

namespace Sys2Proof.Machine

/-! ### Meanings as programs over the host -/

/-- A function of what is shared with the host that reaches it through its operations alone, each of them one that `P`
allows (R100, R500): it ends in registers of its own, performs an operation, or goes on by what it hears or by what the
controller names for RETI. -/
inductive HostProgram (P : BusEvent → Prop) : (Shared → State) → Prop
  | done (r : State) : HostProgram P fun h => { r with toShared := h }
  | perform {ev : BusEvent} {k : Shared → State} (allowed : P ev) (next : HostProgram P k) :
      HostProgram P fun h => k (h.perform ev)
  | hear (a : Word) {k : Byte → Shared → State} (next : ∀ v, HostProgram P (k v)) :
      HostProgram P fun h => k (h.hear a) h
  | hearPort (p : Word) {k : Byte → Shared → State} (next : ∀ v, HostProgram P (k v)) :
      HostProgram P fun h => k (h.hearPort p) h
  | consult {k : Nat → Option Nat → Shared → State} (next : ∀ n d, HostProgram P (k n d)) :
      HostProgram P fun h => k h.nDev h.serviceDev h

/-- A change of state that reaches the host as a program does, whatever the registers are. -/
def Interacts (P : BusEvent → Prop) (m : State → State) : Prop :=
  ∀ s : State, HostProgram P fun h => m { s with toShared := h }

variable {P : BusEvent → Prop} {m m' : State → State}

theorem HostProgram.comp {F : Shared → State} (hF : HostProgram P F) (hm : Interacts P m) :
    HostProgram P fun h => m (F h) := by
  induction hF with
  | done r => exact hm r
  | perform allowed _ ih => exact .perform allowed ih
  | hear a _ ih => exact .hear a ih
  | hearPort p _ ih => exact .hearPort p ih
  | consult _ ih => exact .consult ih

theorem Interacts.comp (hm' : Interacts P m') (hm : Interacts P m) : Interacts P fun s => m' (m s) :=
  fun s => (hm s).comp hm'

/-- A change of registers alone. -/
theorem Interacts.of_registers (e : ∀ s h, m { s with toShared := h } = { m s with toShared := h }) : Interacts P m :=
  fun s => (funext (e s) : (fun h => m { s with toShared := h }) = _) ▸ .done (m s)

theorem Interacts.charge (n : Nat) : Interacts P fun s => s.charge n := .of_registers fun _ _ => rfl

/-! ### The shared operations as programs -/

section
variable (read : ∀ a v, P (.memRead .data a v)) (write : ∀ a v, P (.memWrite a v))
include read

theorem HostProgram.memRead (a : Word) {k : Byte × State → State} (s : State)
    (next : ∀ v, HostProgram P fun h => k (v, { s with toShared := h })) :
    HostProgram P fun h => k (memRead a { s with toShared := h }) :=
  .hear a (k := fun v h => k (v, { s with toShared := h.perform (.memRead .data a v) })) fun v =>
    .perform (read a v) (next v)

theorem HostProgram.memRead16 (a : Word) {k : Word × State → State} (s : State)
    (next : ∀ v, HostProgram P fun h => k (v, { s with toShared := h })) :
    HostProgram P fun h => k (memRead16 a { s with toShared := h }) :=
  .memRead read a
    (k := fun p => k (wordOf (Machine.memRead (a + 1) p.2).1 p.1, (Machine.memRead (a + 1) p.2).2)) s fun lo =>
    .memRead read (a + 1) (k := fun p => k (wordOf p.1 lo, p.2)) s fun hi => next (wordOf hi lo)

theorem HostProgram.pop16 {k : Word × State → State} (s : State)
    (next : ∀ v, HostProgram P fun h => k (v, { s with toShared := h, sp := s.sp + 2 })) :
    HostProgram P fun h => k (pop16 { s with toShared := h }) :=
  .memRead16 read s.sp (k := fun p => k (p.1, { p.2 with sp := s.sp + 2 })) s next

omit read
include write

theorem Interacts.memWrite (a : Word) (v : Byte) : Interacts P (memWrite a v) :=
  fun s => .perform (write a v) (.done s)

theorem Interacts.memWrite16 (a v : Word) : Interacts P (memWrite16 a v) :=
  (Interacts.memWrite write (a + 1) (hiByte v)).comp (Interacts.memWrite write a (loByte v))

theorem Interacts.push16 (v : Word) : Interacts P (push16 v) := fun s =>
  .perform (write (s.sp - 1) (hiByte v)) (.perform (write (s.sp - 2) (loByte v)) (.done { s with sp := s.sp - 2 }))

end

end Sys2Proof.Machine

namespace Sys2Proof.Machine

variable {P : BusEvent → Prop} {m m' : State → State}

theorem Interacts.setF (f : Byte) : Interacts P fun s => s.setF f := .of_registers fun _ _ => rfl

theorem Interacts.setPc (v : Word) : Interacts P fun s => s.setPc v := .of_registers fun _ _ => rfl

theorem Interacts.setR8 (r : Reg8) (v : Byte) : Interacts P fun s => s.setR8 r v :=
  .of_registers fun _ _ => by cases r <;> rfl

theorem Interacts.setRp (p : RegP) (v : Word) : Interacts P fun s => s.setRp p v :=
  .of_registers fun _ _ => by cases p <;> rfl

theorem Interacts.setRq (q : RegQ) (v : Word) : Interacts P fun s => s.setRq q v :=
  .of_registers fun _ _ => by cases q <;> rfl

theorem Interacts.setXy (x : Index) (v : Word) : Interacts P fun s => s.setXy x v :=
  .of_registers fun _ _ => by cases x <;> rfl

/-- A choice that the registers make. -/
theorem Interacts.branch {c : State → Prop} [DecidablePred c] (hm : Interacts P m) (hm' : Interacts P m')
    (hc : ∀ s h, c { s with toShared := h } = c s := by intros; rfl) :
    Interacts P fun s => if c s then m s else m' s := fun s => by
  simp only [hc]
  split
  · exact hm s
  · exact hm' s

/-- The end of an iteration of a repeating instruction, whichever registers say whether to go on. -/
theorem Interacts.repeatIf (again : State → Bool) (ha : ∀ s h, again { s with toShared := h } = again s := by intros; rfl) :
    Interacts P fun s => repeatIf (again s) s :=
  .branch (c := fun s => again s = true) (m := fun s => (s.setPc (s.pc - 2)).charge 21) (.of_registers fun _ _ => rfl)
    (.charge 16) fun s h => congrArg (· = true) (ha s h)

theorem Interacts.repeatLoad : Interacts P repeatLoad := .repeatIf fun s => s.bc != 0

theorem Interacts.repeatCompare : Interacts P repeatCompare := .repeatIf fun s => s.bc != 0 && !flagZ s.f

theorem Interacts.repeatIo : Interacts P repeatIo := .repeatIf fun s => s.b != 0

section
variable (read : ∀ a v, P (.memRead .data a v)) (write : ∀ a v, P (.memWrite a v))
include read

/-- A word read from memory into registers. -/
theorem Interacts.loadWord {put : Word → State → State} (hp : ∀ v, Interacts P (put v)) (a : Word) (cost : Nat) :
    Interacts P fun s => (put (Machine.memRead16 a s).1 (Machine.memRead16 a s).2).charge cost := fun s =>
  .memRead16 read a (k := fun p => (put p.1 p.2).charge cost) s fun v => (Interacts.charge cost).comp (hp v) s

/-- A word popped into registers. -/
theorem Interacts.popWord {put : Word → State → State} (hp : ∀ v, Interacts P (put v)) :
    Interacts P fun s => (put (Machine.pop16 s).1 (Machine.pop16 s).2).charge 10 := fun s =>
  .pop16 read (k := fun p => (put p.1 p.2).charge 10) s fun v => (Interacts.charge 10).comp (hp v) { s with sp := s.sp + 2 }

/-- A byte read from memory that leaves nothing but F. -/
theorem Interacts.readFlags (g : Byte → Byte) (a : Word) (cost : Nat) :
    Interacts P fun s => ((Machine.memRead a s).2.setF (g (Machine.memRead a s).1)).charge cost := fun s =>
  .memRead read a (k := fun p => (p.2.setF (g p.1)).charge cost) s fun v => .done ((s.setF (g v)).charge cost)

theorem Interacts.loadR8 (r : Reg8) (a : Word) (cost : Nat) : Interacts P (loadR8 r a cost) := fun s =>
  .memRead read a (k := fun p => (p.2.setR8 r p.1).charge cost) s fun v =>
    (Interacts.charge cost).comp (Interacts.setR8 r v) s

theorem Interacts.aluOnMem (o : AluOp) (a : Word) (cost : Nat) : Interacts P (aluOnMem o a cost) := fun s =>
  .memRead read a (k := fun p => aluOn o p.1 cost p.2) s fun v => .done (aluOn o v cost s)

theorem Interacts.blockCompare (dir : Word) : Interacts P (blockCompare dir) := fun s =>
  .memRead read s.hl (k := fun p => ((p.2.setHl (s.hl + dir)).setBc (s.bc - 1)).setF (cpBlockFlags s.f s.a p.1 (s.bc - 1))) s
    fun v => .done (((s.setHl (s.hl + dir)).setBc (s.bc - 1)).setF (cpBlockFlags s.f s.a v (s.bc - 1)))

theorem Interacts.returnTo (cost : Nat) : Interacts P (returnTo cost) := fun s =>
  .pop16 read (k := fun p => (p.2.setPc p.1).charge cost) s fun v => .done (((s.setSp (s.sp + 2)).setPc v).charge cost)

theorem Interacts.returnFromHandler : Interacts P returnFromHandler := fun s =>
  .pop16 read (k := fun p => { p.2 with pc := p.1, iff1 := s.iff2 }) s fun v =>
    .done { s with sp := s.sp + 2, pc := v, iff1 := s.iff2 }

include write

theorem Interacts.modifyMem (g : Byte → Byte → Byte × Byte) (a : Word) (cost : Nat) : Interacts P (modifyMem g a cost) :=
  fun s =>
    .memRead read a (k := fun p => ((Machine.memWrite a (g s.f p.1).1 p.2).setF (g s.f p.1).2).charge cost) s fun v =>
      ((Interacts.charge cost).comp (Interacts.setF (g s.f v).2)).comp (Interacts.memWrite write a (g s.f v).1) s

theorem Interacts.rotateMem (o : RotOp) (a : Word) (cost : Nat) : Interacts P (rotateMem o a cost) :=
  Interacts.modifyMem read write (rot o) a cost

theorem Interacts.rotateMemCopy (o : RotOp) (a : Word) (r : Reg8) : Interacts P (rotateMemCopy o a r) := fun s =>
  .memRead read a
    (k := fun p => (((Machine.memWrite a (rot o s.f p.1).1 p.2).setR8 r (rot o s.f p.1).1).setF (rot o s.f p.1).2).charge 19)
    s fun v =>
      (((Interacts.charge 19).comp (Interacts.setF (rot o s.f v).2)).comp (Interacts.setR8 r (rot o s.f v).1)).comp
        (Interacts.memWrite write a (rot o s.f v).1) s

theorem Interacts.changeMem (g : Byte → Byte) (a : Word) (cost : Nat) : Interacts P (changeMem g a cost) := fun s =>
  .memRead read a (k := fun p => (Machine.memWrite a (g p.1) p.2).charge cost) s fun v =>
    (Interacts.charge cost).comp (Interacts.memWrite write a (g v)) s

theorem Interacts.changeMemCopy (g : Byte → Byte) (a : Word) (r : Reg8) : Interacts P (changeMemCopy g a r) := fun s =>
  .memRead read a (k := fun p => ((Machine.memWrite a (g p.1) p.2).setR8 r (g p.1)).charge 19) s fun v =>
    ((Interacts.charge 19).comp (Interacts.setR8 r (g v))).comp (Interacts.memWrite write a (g v)) s

theorem Interacts.exSp {put : Word → State → State} (hp : ∀ v, Interacts P (put v)) (w : Word) :
    Interacts P fun s => (put (exchangeTop w s).1 (exchangeTop w s).2).charge 19 := fun s =>
  .memRead16 read s.sp
    (k := fun p => (put p.1 (Machine.memWrite s.sp (loByte w) (Machine.memWrite (s.sp + 1) (hiByte w) p.2))).charge 19) s
    fun v =>
      ((Interacts.charge 19).comp (hp v)).comp
        ((Interacts.memWrite write s.sp (loByte w)).comp (Interacts.memWrite write (s.sp + 1) (hiByte w))) s

theorem Interacts.blockLoad (dir : Word) : Interacts P (blockLoad dir) := fun s =>
  .memRead read s.hl
    (k := fun p =>
      ((((Machine.memWrite s.de p.1 p.2).setHl (s.hl + dir)).setDe (s.de + dir)).setBc (s.bc - 1)).setF
        (ldBlockFlags s.f s.a p.1 (s.bc - 1))) s fun v =>
    .perform (write s.de v)
      (.done ((((s.setHl (s.hl + dir)).setDe (s.de + dir)).setBc (s.bc - 1)).setF (ldBlockFlags s.f s.a v (s.bc - 1))))

omit read

theorem Interacts.rotateDigits (stored a : Byte) : Interacts P (rotateDigits stored a) := fun s =>
  .perform (write s.hl stored) (.done (((s.setA a).setF (inFlags s.f a)).charge 18))

theorem Interacts.storeByte (a : Word) (v : Byte) (cost : Nat) : Interacts P (storeByte a v cost) :=
  (Interacts.charge cost).comp (Interacts.memWrite write a v)

theorem Interacts.callTo (target : Word) (cost : Nat) : Interacts P (callTo target cost) := fun s =>
  ((Interacts.charge cost).comp (Interacts.setPc target)).comp (Interacts.push16 write s.pc) s

end

section
variable (read : ∀ a v, P (.memRead .data a v)) (write : ∀ a v, P (.memWrite a v)) (input : ∀ p v, P (.portRead p v))
  (output : ∀ p v, P (.portWrite p v))
include input

theorem HostProgram.portRead (p : Word) {k : Byte × State → State} (s : State)
    (next : ∀ v, HostProgram P fun h => k (v, { s with toShared := h })) :
    HostProgram P fun h => k (portRead p { s with toShared := h }) :=
  .hearPort p (k := fun v h => k (v, { s with toShared := h.perform (.portRead p v) })) fun v =>
    .perform (input p v) (next v)

include write

theorem Interacts.blockIn (dir : Word) : Interacts P (blockIn dir) := fun s =>
  .portRead input s.bc
    (k := fun p =>
      (((Machine.memWrite s.hl p.1 p.2).setB (s.b - 1)).setHl (s.hl + dir)).setF
        (ioBlockFlags (s.b - 1) p.1 (p.1.toNat + (s.c + loByte dir).toNat))) s fun v =>
    .perform (write s.hl v)
      (.done (((s.setB (s.b - 1)).setHl (s.hl + dir)).setF
        (ioBlockFlags (s.b - 1) v (v.toNat + (s.c + loByte dir).toNat))))

omit input write
include output

theorem Interacts.portWrite (p : Word) (v : Byte) : Interacts P (portWrite p v) :=
  fun s => .perform (output p v) (.done s)

include read

theorem Interacts.blockOut (dir : Word) : Interacts P (blockOut dir) := fun s =>
  .memRead read s.hl
    (k := fun p =>
      (((Machine.portWrite (wordOf (s.b - 1) s.c) p.1 p.2).setB (s.b - 1)).setHl (s.hl + dir)).setF
        (ioBlockFlags (s.b - 1) p.1 (p.1.toNat + (loByte (s.hl + dir)).toNat))) s fun v =>
    .perform (output (wordOf (s.b - 1) s.c) v)
      (.done (((s.setB (s.b - 1)).setHl (s.hl + dir)).setF
        (ioBlockFlags (s.b - 1) v (v.toNat + (loByte (s.hl + dir)).toNat))))

end

/-- RETI asks the controller whom to tell, after its stack reads (R436). -/
theorem Interacts.notifyReti (tell : ∀ d, P (.deviceReti d)) : Interacts P notifyReti := fun s =>
  .consult
    (k := fun n d h =>
      if n = 0 then { s with toShared := h } else match d with
        | some d => { s with toShared := h.perform (.deviceReti d) }
        | none => { s with toShared := h }) fun n d => by
    split
    · exact .done s
    · cases d with
      | none => exact .done s
      | some d => exact .perform (tell d) (.done s)

/-! ### Every meaning is such a program -/

/-- The operations the meaning of an instruction may perform (R51, R71): data reads and the RETI notification, writes
for the storing instructions and port accesses for the input and output group. -/
def MayPerform (i : Instr) : BusEvent → Prop
  | .memRead tag _ _ => tag = .data
  | .memWrite _ _ => i.storesMemory = true
  | .portRead _ _ => i.reachesPorts = true
  | .portWrite _ _ => i.reachesPorts = true
  | .deviceReti _ => True
  | .irqAck _ _ => False
  | .deviceEntry _ _ => False
  | .deviceReset _ => False

/-- The state that the meaning of an instruction answers. -/
def effect (i : Instr) (s : State) : State :=
  match exec i s with
  | .next t => t
  | .fault _ => s
  | .refused _ => s

theorem exec_eq_effect (i : Instr) (s : State) : exec i s = .next (effect i s) := by
  obtain ⟨t, e⟩ := safe_exec i s
  rw [effect, e]

theorem eq_effect {i : Instr} {s t : State} (e : exec i s = .next t) : t = effect i s := by
  rw [effect, e]

@[simp] theorem effect_unaffected (x : Index) (i : Instr) : effect (.unaffected x i) = effect i :=
  funext fun s => by rw [effect, exec_unaffected, effect]

theorem effect_djnz (e : Byte) :
    effect (.djnz e) = fun s =>
      if s.b - 1 = 0 then (s.setB (s.b - 1)).charge 8 else ((s.setB (s.b - 1)).setPc (s.pc + sext e)).charge 13 :=
  funext fun s => (eq_effect (i := .djnz e) (execDjnz_eq e s)).symm

theorem Interacts.of_exec {i : Instr} (e : ∀ s, exec i s = .next (m s)) (hm : Interacts P m) : Interacts P (effect i) :=
  (funext fun s => eq_effect (e s) : m = effect i) ▸ hm

/-- An instruction reaches the host through the operations its kind allows, and through no others. -/
theorem effect_interacts (i : Instr) : Interacts (MayPerform i) (effect i) := by
  have read {i} : ∀ a v, MayPerform i (.memRead .data a v) := fun _ _ => rfl
  have write {i : Instr} (hi : i.storesMemory = true := by rfl) : ∀ a v, MayPerform i (.memWrite a v) := fun _ _ => hi
  have input {i : Instr} (hi : i.reachesPorts = true := by rfl) : ∀ p v, MayPerform i (.portRead p v) := fun _ _ => hi
  have output {i : Instr} (hi : i.reachesPorts = true := by rfl) : ∀ p v, MayPerform i (.portWrite p v) := fun _ _ => hi
  induction i with
  | unaffected x j ih => exact effect_unaffected x j ▸ ih
  | djnz e => exact effect_djnz e ▸ .branch (.of_registers fun _ _ => rfl) (.of_registers fun _ _ => rfl)
  | jrNz | jrZ | jrNc | jrC => exact .branch (.of_registers fun _ _ => rfl) (.of_registers fun _ _ => rfl)
  | jpCcNn cc nn => exact (Interacts.charge 10).comp (.branch (.setPc nn) (.of_registers fun _ _ => rfl))
  | callCcNn cc nn => exact .branch (.callTo write nn 17) (.charge 10)
  | callNn nn => exact .callTo write nn 17
  | rst t => exact .callTo write (BitVec.ofNat 16 (8 * t.val)) 11
  | retCc cc => exact .branch (.returnTo read 11) (.charge 5)
  | ret => exact .returnTo read 10
  | retn | retnAlias => exact (Interacts.charge 14).comp (.returnFromHandler read)
  | reti => exact ((Interacts.charge 14).comp (.notifyReti fun _ => trivial)).comp (.returnFromHandler read)
  | ldDdNn r | incSs r | decSs r | ldXyNn r | addXyPp r | incXy r | decXy r | ldRN r | incR r | decR r | ldRR r
  | rlcR r | rrcR r | rlR r | rrR r | slaR r | sraR r | sllR r | srlR r | resBR _ r | setBR _ r =>
    exact .of_registers fun _ _ => by cases r <;> rfl
  | ldXyHalfN x k | incXyHalf x k | decXyHalf x k | ldPP x k =>
    exact .of_registers fun _ _ => by cases x <;> cases k <;> rfl
  | ldRIndHl r => exact fun s => Interacts.loadR8 read r s.hl 7 s
  | ldAIndBc => exact fun s => Interacts.loadR8 read .a s.bc 7 s
  | ldAIndDe => exact fun s => Interacts.loadR8 read .a s.de 7 s
  | ldAIndNn nn => exact .loadR8 read .a nn 13
  | ldRIndXy x r d => exact fun s => Interacts.loadR8 read r (s.ea x d) 15 s
  | addAIndHl | adcAIndHl | subIndHl | sbcAIndHl | andIndHl | xorIndHl | orIndHl | cpIndHl =>
    exact .of_exec (fun _ => rfl) fun s => Interacts.aluOnMem read _ s.hl 7 s
  | addAIndXy x d | adcAIndXy x d | subIndXy x d | sbcAIndXy x d | andIndXy x d | xorIndXy x d | orIndXy x d
  | cpIndXy x d => exact .of_exec (fun _ => rfl) fun s => Interacts.aluOnMem read _ (s.ea x d) 15 s
  | bitBIndHl b => exact fun s => Interacts.readFlags read (fun v => bitFlags s.f b v v) s.hl 12 s
  | bitBIndXy x d b | bitBIndXyAlias x d b =>
    exact fun s => Interacts.readFlags read (fun v => bitFlags s.f b v (hiByte (s.ea x d))) (s.ea x d) 16 s
  | ldHlIndNn nn => exact .loadWord read (put := fun v s => s.setHl v) (fun v => .setRp .hl v) nn 16
  | ldDdIndNn dd nn => exact .loadWord read (.setRp dd) nn 20
  | ldXyIndNn x nn => exact .loadWord read (.setXy x) nn 16
  | popQq qq => exact .popWord read (.setRq qq)
  | popXy x => exact .popWord read (.setXy x)
  | pushQq qq => exact fun s => (Interacts.charge 11).comp (.push16 write (s.rq qq)) s
  | pushXy x => exact fun s => (Interacts.charge 11).comp (.push16 write (s.xy x)) s
  | ldIndBcA => exact fun s => Interacts.storeByte write s.bc s.a 7 s
  | ldIndDeA => exact fun s => Interacts.storeByte write s.de s.a 7 s
  | ldIndNnA nn => exact fun s => Interacts.storeByte write nn s.a 13 s
  | ldIndHlN n => exact fun s => Interacts.storeByte write s.hl n 10 s
  | ldIndHlR r => exact fun s => Interacts.storeByte write s.hl (s.r8 r) 7 s
  | ldIndXyN x d n => exact fun s => Interacts.storeByte write (s.ea x d) n 15 s
  | ldIndXyR x d r => exact fun s => Interacts.storeByte write (s.ea x d) (s.r8 r) 15 s
  | ldIndNnHl nn => exact fun s => (Interacts.charge 16).comp (.memWrite16 write nn s.hl) s
  | ldIndNnDd nn dd => exact fun s => (Interacts.charge 20).comp (.memWrite16 write nn (s.rp dd)) s
  | ldIndNnXy x nn => exact fun s => (Interacts.charge 16).comp (.memWrite16 write nn (s.xy x)) s
  | incIndHl | decIndHl => exact .of_exec (fun _ => rfl) fun s => Interacts.modifyMem read write _ s.hl 11 s
  | incIndXy x d | decIndXy x d => exact .of_exec (fun _ => rfl) fun s => Interacts.modifyMem read write _ (s.ea x d) 19 s
  | rlcIndHl | rrcIndHl | rlIndHl | rrIndHl | slaIndHl | sraIndHl | sllIndHl | srlIndHl =>
    exact .of_exec (fun _ => rfl) fun s => Interacts.rotateMem read write _ s.hl 15 s
  | rlcIndXy x d | rrcIndXy x d | rlIndXy x d | rrIndXy x d | slaIndXy x d | sraIndXy x d | sllIndXy x d | srlIndXy x d =>
    exact .of_exec (fun _ => rfl) fun s => Interacts.rotateMem read write _ (s.ea x d) 19 s
  | rlcIndXyR x d r | rrcIndXyR x d r | rlIndXyR x d r | rrIndXyR x d r | slaIndXyR x d r | sraIndXyR x d r
  | sllIndXyR x d r | srlIndXyR x d r =>
    exact .of_exec (fun _ => rfl) fun s => Interacts.rotateMemCopy read write _ (s.ea x d) r s
  | resBIndHl | setBIndHl => exact .of_exec (fun _ => rfl) fun s => Interacts.changeMem read write _ s.hl 15 s
  | resBIndXy x d | setBIndXy x d => exact .of_exec (fun _ => rfl) fun s => Interacts.changeMem read write _ (s.ea x d) 19 s
  | resBIndXyR x d b r | setBIndXyR x d b r =>
    exact .of_exec (fun _ => rfl) fun s => Interacts.changeMemCopy read write _ (s.ea x d) r s
  | rld =>
    exact fun s => .memRead read s.hl (k := fun p =>
      rotateDigits ((p.1 <<< 4) ||| (s.a &&& 0x0F)) ((s.a &&& 0xF0) ||| (p.1 >>> 4)) p.2) s fun v =>
        Interacts.rotateDigits (write rfl) ((v <<< 4) ||| (s.a &&& 0x0F)) ((s.a &&& 0xF0) ||| (v >>> 4)) s
  | rrd =>
    exact fun s => .memRead read s.hl (k := fun p =>
      rotateDigits ((s.a <<< 4) ||| (p.1 >>> 4)) ((s.a &&& 0xF0) ||| (p.1 &&& 0x0F)) p.2) s fun v =>
        Interacts.rotateDigits (write rfl) ((s.a <<< 4) ||| (v >>> 4)) ((s.a &&& 0xF0) ||| (v &&& 0x0F)) s
  | exSpHl => exact fun s => Interacts.exSp read write (put := fun v s => s.setHl v) (fun v => .setRp .hl v) s.hl s
  | exSpXy x => exact fun s => Interacts.exSp read write (.setXy x) (s.xy x) s
  | ldi => exact (Interacts.charge 16).comp (.blockLoad read write 1)
  | ldd => exact (Interacts.charge 16).comp (.blockLoad read write (-1))
  | cpi => exact (Interacts.charge 16).comp (.blockCompare read 1)
  | cpd => exact (Interacts.charge 16).comp (.blockCompare read (-1))
  | ldir => exact Interacts.repeatLoad.comp (.blockLoad read write 1)
  | lddr => exact Interacts.repeatLoad.comp (.blockLoad read write (-1))
  | cpir => exact Interacts.repeatCompare.comp (.blockCompare read 1)
  | cpdr => exact Interacts.repeatCompare.comp (.blockCompare read (-1))
  | ini => exact (Interacts.charge 16).comp (.blockIn write input 1)
  | ind => exact (Interacts.charge 16).comp (.blockIn write input (-1))
  | outi => exact (Interacts.charge 16).comp (.blockOut read output 1)
  | outd => exact (Interacts.charge 16).comp (.blockOut read output (-1))
  | inir => exact Interacts.repeatIo.comp (.blockIn write input 1)
  | indr => exact Interacts.repeatIo.comp (.blockIn write input (-1))
  | otir => exact Interacts.repeatIo.comp (.blockOut read output 1)
  | otdr => exact Interacts.repeatIo.comp (.blockOut read output (-1))
  | inAN n =>
    exact fun s => .portRead input (wordOf s.a n) (k := fun p => (p.2.setA p.1).charge 11) s fun v =>
      .done ((s.setA v).charge 11)
  | inRC r =>
    exact fun s => .portRead input s.bc (k := fun p => ((p.2.setR8 r p.1).setF (inFlags s.f p.1)).charge 12) s fun v =>
      ((Interacts.charge 12).comp (.setF (inFlags s.f v))).comp (.setR8 r v) s
  | inC =>
    exact fun s => .portRead input s.bc (k := fun p => (p.2.setF (inFlags s.f p.1)).charge 12) s fun v =>
      .done ((s.setF (inFlags s.f v)).charge 12)
  | outNA n => exact fun s => (Interacts.charge 11).comp (.portWrite output (wordOf s.a n) s.a) s
  | outCR r => exact fun s => (Interacts.charge 12).comp (.portWrite output s.bc (s.r8 r)) s
  | outC0 => exact fun s => (Interacts.charge 12).comp (.portWrite output s.bc 0x00) s
  | _ => exact .of_registers fun _ _ => rfl

end Sys2Proof.Machine

namespace Sys2Proof.Machine

section
variable {P : BusEvent → Prop} {m : State → State}

theorem HostProgram.performs {F : Shared → State} (hF : HostProgram P F) (h : Shared) :
    ∃ evs : List BusEvent, (∀ ev ∈ evs, P ev) ∧ (F h).toShared = evs.foldl Shared.perform h := by
  induction hF generalizing h with
  | done r => exact ⟨[], by simp, rfl⟩
  | @perform ev k allowed _ ih =>
    obtain ⟨evs, hP, e⟩ := ih (h.perform ev)
    exact ⟨ev :: evs, List.forall_mem_cons.mpr ⟨allowed, hP⟩, e⟩
  | hear a _ ih => exact ih (h.hear a) h
  | hearPort p _ ih => exact ih (h.hearPort p) h
  | consult _ ih => exact ih h.nDev h.serviceDev h

/-- A program leaves what is shared with the host as allowed operations leave it. -/
theorem Interacts.performs (hm : Interacts P m) (s : State) :
    ∃ evs : List BusEvent, (∀ ev ∈ evs, P ev) ∧ (m s).toShared = (s.after evs).toShared := by
  obtain ⟨evs, hP, e⟩ := (hm s).performs s.toShared
  exact ⟨evs, hP, e.trans (congrArg State.toShared (s.after_eq evs)).symm⟩

end

theorem exec_performs {i : Instr} {s t : State} (e : exec i s = .next t) :
    ∃ evs : List BusEvent, (∀ ev ∈ evs, MayPerform i ev) ∧ t.toShared = (s.after evs).toShared :=
  eq_effect e ▸ (effect_interacts i).performs s

/-! ### Memory that nothing writes -/

theorem Shared.act_mem {x : HostAct} (k : x.onMemory = false) (h : Shared) : (h.act x).mem = h.mem := by
  cases x with
  | setMemory a v => exact Bool.noConfusion k
  | setNmiLine level => exact Shared.setNmiLine_mem level h
  | setIrqLine line level report =>
    simp only [Shared.act]
    cases e : h.setIrqLine line level report with
    | none => rfl
    | some g => exact Shared.setIrqLine_mem e

theorem Shared.acts_mem {xs : List HostAct} (k : ∀ x, x ∈ xs → x.onMemory = false) (h : Shared) :
    (xs.foldl Shared.act h).mem = h.mem := by
  induction xs generalizing h with
  | nil => rfl
  | cons x xs ih =>
    exact (ih (fun y hy => k y (List.mem_cons_of_mem x hy)) (h.act x)).trans (Shared.act_mem (k x List.mem_cons_self) h)

theorem perform_mem {s : State} (k : s.HostKeepsMemory) {ev : BusEvent} (n : ∀ a v, ev ≠ .memWrite a v) :
    (s.perform ev).mem = s.mem := by
  refine (Shared.acts_mem (callback_keepsMemory k) _).trans ?_
  cases ev with
  | memWrite a v => exact absurd rfl (n a v)
  | _ => rfl

/-- Operations that write nothing leave the memory of a host that changes none. -/
theorem after_mem {s : State} (k : s.HostKeepsMemory) {evs : List BusEvent} (n : ∀ a v, BusEvent.memWrite a v ∉ evs) :
    (s.after evs).mem = s.mem := by
  induction evs generalizing s with
  | nil => rfl
  | cons ev evs ih =>
    rw [State.after_cons, ih (perform_keepsMemory k ev) fun a v hm => n a v (List.mem_cons_of_mem ev hm)]
    exact perform_mem k fun a v e => n a v (e ▸ List.mem_cons_self)

/-- Settles O27: a meaning performs only the operations of its kind, and operations that write nothing leave the memory
of a host that changes none. -/
theorem memoryAndPortsAreReachedOnlyByTheirInstructions :
    Obligations.MemoryAndPortsAreReachedOnlyByTheirInstructions := by
  intro i s t e
  obtain ⟨evs, may, h⟩ := exec_performs e
  have hmem : i.storesMemory = false → ∀ a v, BusEvent.memWrite a v ∉ evs := fun hi a v hev =>
    absurd (may _ hev) (by simp [MayPerform, hi])
  refine ⟨evs, ?_, fun hi => ⟨hmem hi, fun k => ?_⟩,
    fun hi => ⟨fun p v hev => ?_, fun p v hev => ?_⟩⟩
  · rw [congrArg Shared.bus h, State.after_bus]
  · have keep : t.mem = s.mem := (congrArg Shared.mem h).trans (after_mem k (hmem hi))
    exact ⟨keep, Shared.peek_congr keep⟩
  · exact absurd (may _ hev) (by simp [MayPerform, hi])
  · exact absurd (may _ hev) (by simp [MayPerform, hi])

/-! ### The registers that few instructions change -/

/-- The registers and latches that O25 and O26 speak of. -/
structure Control where
  af2 : Word
  bc2 : Word
  de2 : Word
  hl2 : Word
  prepc : Word
  i : Byte
  rCount : BitVec 7
  rB7 : BitVec 1
  iff1 : Bool
  iff2 : Bool
  im : IMode
  halt : Bool
  intDefer : Bool
  xyMode : Option Index

/-- Those registers of a state. -/
def State.control (s : State) : Control where
  af2 := s.af2
  bc2 := s.bc2
  de2 := s.de2
  hl2 := s.hl2
  prepc := s.prepc
  i := s.i
  rCount := s.rCount
  rB7 := s.rB7
  iff1 := s.iff1
  iff2 := s.iff2
  im := s.im
  halt := s.halt
  intDefer := s.intDefer
  xyMode := s.xyMode

/-- What each instruction leaves in them: a row for each of the few that change one (R221, R222, R184 to R187, R306 to
R313, R436, R437). `effect_control` says that it is what the meaning leaves. -/
def controlAfter (i : Instr) (s : State) : Control :=
  match i.core with
  | .exAfAf2 => { s.control with af2 := s.af }
  | .exx => { s.control with bc2 := s.bc, de2 := s.de, hl2 := s.hl }
  | .ldIA => { s.control with i := s.a }
  | .ldRefA => { s.control with rCount := s.a.extractLsb' 0 7, rB7 := s.a.extractLsb' 7 1 }
  | .di => { s.control with iff1 := false, iff2 := false }
  | .ei => { s.control with iff1 := true, iff2 := true, intDefer := true }
  | .retn | .reti | .retnAlias _ => { s.control with iff1 := s.iff2 }
  | .im0 | .im0Alias _ => { s.control with im := .im0 }
  | .im1 | .im1Alias => { s.control with im := .im1 }
  | .im2 | .im2Alias => { s.control with im := .im2 }
  | .halt => { s.control with halt := true }
  | .prefixIx => { s.control with xyMode := some .ix, intDefer := true }
  | .prefixIy => { s.control with xyMode := some .iy, intDefer := true }
  | _ => s.control

theorem control_ite {c : Prop} [Decidable c] {t u : State} {x : Control} (ht : t.control = x) (hu : u.control = x) :
    (if c then t else u).control = x := by
  split
  · exact ht
  · exact hu

theorem notifyReti_control (s : State) : (notifyReti s).control = s.control := by
  unfold notifyReti
  refine control_ite rfl ?_
  cases s.serviceDev <;> rfl

theorem setR8_control (s : State) (r : Reg8) (v : Byte) : (s.setR8 r v).control = s.control := by cases r <;> rfl

theorem setRp_control (s : State) (p : RegP) (v : Word) : (s.setRp p v).control = s.control := by cases p <;> rfl

theorem setRq_control (s : State) (q : RegQ) (v : Word) : (s.setRq q v).control = s.control := by cases q <;> rfl

theorem setXy_control (s : State) (x : Index) (v : Word) : (s.setXy x v).control = s.control := by cases x <;> rfl

theorem setHalf_control (s : State) (x : Index) (k : Half) (v : Byte) : (s.setHalf x k v).control = s.control := by
  cases k <;> exact setXy_control s x _

theorem setIr8_control (s : State) (x : Index) (p : IReg8) (v : Byte) : (s.setIr8 x p v).control = s.control := by
  cases p with
  | xh => exact setHalf_control s x .high v
  | xl => exact setHalf_control s x .low v
  | _ => rfl

/-- The control registers after every instruction. -/
theorem effect_control (i : Instr) (s : State) : (effect i s).control = controlAfter i s := by
  induction i with
  | unaffected x j ih => rw [effect_unaffected, ih]; rfl
  | djnz e => rw [effect_djnz]; exact control_ite rfl rfl
  | jrNz | jrZ | jrNc | jrC | jpCcNn | callCcNn | retCc | ldir | lddr | cpir | cpdr | inir | indr | otir | otdr =>
    exact control_ite rfl rfl
  | reti => exact notifyReti_control (returnFromHandler s)
  | incR r | decR r | ldRN r | ldRR r | ldRIndHl r | rlcR r | rrcR r | rlR r | rrR r | slaR r | sraR r | sllR r | srlR r
  | resBR _ r | setBR _ r | inRC r | ldRIndXy _ r | rlcIndXyR _ _ r | rrcIndXyR _ _ r | rlIndXyR _ _ r | rrIndXyR _ _ r
  | slaIndXyR _ _ r | sraIndXyR _ _ r | sllIndXyR _ _ r | srlIndXyR _ _ r | resBIndXyR _ _ _ r | setBIndXyR _ _ _ r =>
    exact setR8_control _ r _
  | ldDdNn p | incSs p | decSs p | ldDdIndNn p => exact setRp_control _ p _
  | popQq q => exact setRq_control _ q _
  | ldXyNn x | addXyPp x | ldXyIndNn x | incXy x | decXy x | popXy x | exSpXy x => exact setXy_control _ x _
  | incXyHalf x k | decXyHalf x k | ldXyHalfN x k => exact setHalf_control s x k _
  | ldPP x p => exact setIr8_control s x p _
  | _ => rfl

theorem exec_control {i : Instr} {s t : State} (e : exec i s = .next t) : t.control = controlAfter i s :=
  eq_effect e ▸ effect_control i s

/-! ### What the instructions not named for a register leave of it -/

section
variable {i : Instr} {s : State}

theorem controlAfter_af2 (h : i.core ≠ .exAfAf2) : (controlAfter i s).af2 = s.af2 := by
  unfold controlAfter
  split <;> simp_all [State.control]

theorem controlAfter_shadows (h : i.core ≠ .exx) :
    (controlAfter i s).bc2 = s.bc2 ∧ (controlAfter i s).de2 = s.de2 ∧ (controlAfter i s).hl2 = s.hl2 := by
  unfold controlAfter
  split <;> simp_all [State.control]

theorem controlAfter_prepc : (controlAfter i s).prepc = s.prepc := by
  unfold controlAfter
  split <;> rfl

theorem controlAfter_i (h : i.core ≠ .ldIA) : (controlAfter i s).i = s.i := by
  unfold controlAfter
  split <;> simp_all [State.control]

theorem controlAfter_r (h : i.core ≠ .ldRefA) :
    (controlAfter i s).rCount = s.rCount ∧ (controlAfter i s).rB7 = s.rB7 := by
  unfold controlAfter
  split <;> simp_all [State.control]

theorem controlAfter_iff1 (hei : i.core ≠ .ei) (hdi : i.core ≠ .di) (hretn : i.core ≠ .retn) (hreti : i.core ≠ .reti)
    (halias : ∀ y, i.core ≠ .retnAlias y) : (controlAfter i s).iff1 = s.iff1 := by
  unfold controlAfter
  split <;> simp_all [State.control]

theorem controlAfter_iff2 (hei : i.core ≠ .ei) (hdi : i.core ≠ .di) : (controlAfter i s).iff2 = s.iff2 := by
  unfold controlAfter
  split <;> simp_all [State.control]

theorem controlAfter_im (h0 : i.core ≠ .im0) (h0' : ∀ y, i.core ≠ .im0Alias y) (h1 : i.core ≠ .im1)
    (h1' : i.core ≠ .im1Alias) (h2 : i.core ≠ .im2) (h2' : i.core ≠ .im2Alias) : (controlAfter i s).im = s.im := by
  unfold controlAfter
  split <;> simp_all [State.control]

theorem controlAfter_halt (h : i.core ≠ .halt) : (controlAfter i s).halt = s.halt := by
  unfold controlAfter
  split <;> simp_all [State.control]

theorem controlAfter_xyMode (hix : i.core ≠ .prefixIx) (hiy : i.core ≠ .prefixIy) :
    (controlAfter i s).xyMode = s.xyMode := by
  unfold controlAfter
  split <;> simp_all [State.control]

theorem controlAfter_intDefer (hix : i.core ≠ .prefixIx) (hiy : i.core ≠ .prefixIy) (hei : i.core ≠ .ei) :
    (controlAfter i s).intDefer = s.intDefer := by
  unfold controlAfter
  split <;> simp_all [State.control]

/-- From a state that no latch shields and that is not halted, an index mode comes with a deferral, and a halt without
one (R308, R313). -/
theorem controlAfter_latches (hx : s.xyMode = none) (hd : s.intDefer = false) (hh : s.halt = false) :
    ((controlAfter i s).xyMode ≠ none → (controlAfter i s).intDefer = true) ∧
      ((controlAfter i s).halt = true → (controlAfter i s).intDefer = false) := by
  unfold controlAfter
  split <;> simp_all [State.control]

end

/-- Settles O25: the shadow pairs are among the registers of `controlAfter`, which writes them in the rows of the two
exchanges alone. -/
theorem shadowPairsAreOnlyExchanged : Obligations.ShadowPairsAreOnlyExchanged := fun _ _ _ e =>
  have c := exec_control e
  ⟨fun h => (congrArg Control.af2 c).trans (controlAfter_af2 h), fun h =>
    have ⟨hb, hd, hl⟩ := controlAfter_shadows h
    ⟨(congrArg Control.bc2 c).trans hb, (congrArg Control.de2 c).trans hd, (congrArg Control.hl2 c).trans hl⟩⟩

/-- Settles O26: the control registers are those of `controlAfter`, and the lines, the latch and the controller are as
the operations of the meaning leave them. -/
theorem controlStateIsChangedOnlyByItsInstructions : Obligations.ControlStateIsChangedOnlyByItsInstructions := by
  intro i s t e
  have c := exec_control e
  refine ⟨fun h => (congrArg Control.i c).trans (controlAfter_i h), fun h => ?_,
    fun hei hdi hretn hreti hy => (congrArg Control.iff1 c).trans (controlAfter_iff1 hei hdi hretn hreti hy),
    fun hei hdi => (congrArg Control.iff2 c).trans (controlAfter_iff2 hei hdi),
    fun h0 h0' h1 h1' h2 h2' => (congrArg Control.im c).trans (controlAfter_im h0 h0' h1 h1' h2 h2'),
    fun h => (congrArg Control.halt c).trans (controlAfter_halt h),
    fun hix hiy => ⟨(congrArg Control.xyMode c).trans (controlAfter_xyMode hix hiy),
      fun hei => (congrArg Control.intDefer c).trans (controlAfter_intDefer hix hiy hei)⟩,
    (congrArg Control.prepc c).trans controlAfter_prepc, fun k => ?_⟩
  · obtain ⟨hCount, hB7⟩ := controlAfter_r (s := s) h
    exact ⟨(congrArg Control.rCount c).trans hCount, (congrArg Control.rB7 c).trans hB7⟩
  · obtain ⟨evs, -, h⟩ := exec_performs e
    rw [h, after_of_keepsLines k]
    exact ⟨rfl, rfl, rfl, rfl, rfl, rfl⟩

end Sys2Proof.Machine

namespace Sys2Proof.Machine

/-! ### F -/

theorem f_ite {c : Prop} [Decidable c] {t u : State} {x : Byte} (ht : t.f = x) (hu : u.f = x) :
    (if c then t else u).f = x := by
  split
  · exact ht
  · exact hu

theorem notifyReti_f (s : State) : (notifyReti s).f = s.f := by
  unfold notifyReti
  refine f_ite rfl ?_
  cases s.serviceDev <;> rfl

/-- The rows of the flag table that keep every flag, by what they write instead (R51). -/
theorem effect_f {i : Instr} (h : i.keepsFlags = true) (s : State) : (effect i s).f = s.f := by
  induction i with
  | unaffected x j ih => exact (congrArg (fun m => (m s).f) (effect_unaffected x j)).trans (ih h)
  | djnz e => rw [effect_djnz]; exact f_ite rfl rfl
  | jrNz | jrZ | jrNc | jrC | jpCcNn | callCcNn | retCc => exact f_ite rfl rfl
  | reti => exact notifyReti_f (returnFromHandler s)
  | ldRN r | ldRR r | ldRIndHl r | ldRIndXy _ r | resBR _ r | setBR _ r | resBIndXyR _ _ _ r | setBIndXyR _ _ _ r =>
    exact State.setR8_f _ r _
  | ldDdNn p | incSs p | decSs p | ldDdIndNn p => exact State.setRp_f _ p _
  | ldXyNn x | ldXyIndNn x | incXy x | decXy x | popXy x | exSpXy x => exact State.setXy_f _ x _
  | ldXyHalfN x k => exact State.setHalf_f s x k _
  | ldPP x p => exact State.setIr8_f s x p _
  | popQq q =>
    cases q with
    | af => exact absurd h Bool.false_ne_true
    | _ => rfl
  | nop | jr | ldIndBcA | ldIndDeA | ldIndNnHl | ldIndNnA | ldAIndBc | ldAIndDe | ldHlIndNn | ldAIndNn | ldIndHlN
  | ldIndHlR | halt | ret | exx | jpHl | ldSpHl | jpNn | outNA | inAN | exSpHl | exDeHl | di | ei | pushQq | callNn | rst
  | prefixIx | prefixIy | resBIndHl | setBIndHl | outCR | outC0 | ldIndNnDd | retn | retnAlias | im0 | im0Alias | im1
  | im1Alias | im2 | im2Alias | ldIA | ldRefA | edNop | ldIndNnXy | ldIndXyN | ldIndXyR | jpXy | ldSpXy | pushXy
  | resBIndXy | setBIndXy => rfl
  | _ => exact absurd h Bool.false_ne_true

/-- Settles O28: each row that keeps F writes other registers, memory or nothing. -/
theorem flagsAreKeptByEveryOtherInstruction : Obligations.FlagsAreKeptByEveryOtherInstruction :=
  fun _ s _ h e => eq_effect e ▸ effect_f h s

/-! ### The shared part of the invariant -/

/-- What the invariant says of what is shared with the host. -/
structure Shared.Inv (h : Shared) : Prop where
  memWf : h.mem.wf = true
  chain : h.nDev ≤ Config.maxDaisy
  service : h.serviceDev = firstIeo 0 h.intState
  grant : h.requestDev = none ∨ h.requestDev = firstGrant 0 h.intState

theorem State.inv_iff (s : State) :
    s.Inv ↔ s.toShared.Inv ∧ (s.xyMode ≠ none → s.intDefer = true) ∧ (s.halt = true → s.intDefer = false) :=
  ⟨fun ⟨m, x, h, c, d, g⟩ => ⟨⟨m, c, d, g⟩, x, h⟩, fun ⟨⟨m, c, d, g⟩, x, h⟩ => ⟨m, x, h, c, d, g⟩⟩

theorem State.Inv.shared {s : State} (h : s.Inv) : s.toShared.Inv := (s.inv_iff.mp h).1

theorem Shared.inv_setNmiLine {h : Shared} (level : Bool) (inv : h.Inv) : (h.setNmiLine level).Inv := by
  obtain ⟨m, c, d, g⟩ := inv
  unfold Shared.setNmiLine
  split <;> exact ⟨m, c, d, g⟩

theorem Shared.inv_reportState {h : Shared} (d : Nat) (v : Byte) (inv : h.Inv) : (h.reportState d v).Inv := by
  unfold Shared.reportState
  split
  · exact inv
  · split
    · exact inv
    · exact ⟨inv.memWf, List.length_set.trans_le inv.chain, rfl, .inr rfl⟩

theorem Shared.inv_setIrqLine {line : Nat} {level : Bool} {report : Option (Nat × Byte)} {g h : Shared}
    (e : h.setIrqLine line level report = some g) (inv : h.Inv) : g.Inv := by
  have level_inv : ({ h with irqLine := level } : Shared).Inv := ⟨inv.memWf, inv.chain, inv.service, inv.grant⟩
  obtain ⟨-, rfl | ⟨d, v, -, -, -, rfl⟩⟩ := Shared.setIrqLine_cases e
  · exact level_inv
  · exact Shared.inv_reportState d v level_inv

theorem Shared.inv_act {h : Shared} (x : HostAct) (inv : h.Inv) : (h.act x).Inv := by
  cases x with
  | setMemory a v => exact ⟨Shared.wf_poke a v inv.memWf, inv.chain, inv.service, inv.grant⟩
  | setNmiLine level => exact Shared.inv_setNmiLine level inv
  | setIrqLine line level report =>
    simp only [Shared.act]
    cases e : h.setIrqLine line level report with
    | none => exact inv
    | some g => exact Shared.inv_setIrqLine e inv

theorem Shared.inv_acts {h : Shared} (xs : List HostAct) (inv : h.Inv) : (xs.foldl Shared.act h).Inv := by
  induction xs generalizing h with
  | nil => exact inv
  | cons x xs ih => exact ih (Shared.inv_act x inv)

/-- An operation on the host, with whatever the host does inside it, keeps the shared part of the invariant. -/
theorem Shared.inv_perform {h : Shared} (ev : BusEvent) (inv : h.Inv) : (h.perform ev).Inv := by
  refine Shared.inv_acts _ ⟨?_, inv.chain, inv.service, inv.grant⟩
  cases ev with
  | memWrite a v => exact Memory.wf_write v a.isLt inv.memWf
  | _ => exact inv.memWf

theorem HostProgram.inv {P : BusEvent → Prop} {F : Shared → State} (hF : HostProgram P F) {h : Shared} (inv : h.Inv) :
    (F h).toShared.Inv := by
  induction hF generalizing h with
  | done r => exact inv
  | perform _ _ ih => exact ih (Shared.inv_perform _ inv)
  | hear a _ ih => exact ih (h.hear a) inv
  | hearPort p _ ih => exact ih (h.hearPort p) inv
  | consult _ ih => exact ih h.nDev h.serviceDev inv

/-- Settles O8: memory is empty, the latches are clear and there is no chain. -/
theorem resetMeetsTheInvariant : Obligations.ResetMeetsTheInvariant where
  memWf := rfl
  shielded := fun h => absurd rfl h
  haltClear := Bool.noConfusion
  chain := Nat.zero_le _
  service := rfl
  grant := .inl rfl

/-- Settles O10, by evaluating the reset state. -/
theorem resetFlagRegister : Obligations.ResetFlagRegister := by
  unfold Obligations.ResetFlagRegister
  decide

/-- Settles O11, by evaluating the reset state. -/
theorem resetValues : Obligations.ResetValues := by
  unfold Obligations.ResetValues
  decide

end Sys2Proof.Machine

namespace Sys2Proof.Machine

/-! ### The invariant through the operations of a step -/

/-- The invariant speaks of memory, the controller and three latches alone. -/
theorem State.Inv.congr {s t : State} (inv : s.Inv)
    (hm : t.mem = s.mem := by rfl) (hi : t.intState = s.intState := by rfl)
    (hs : t.serviceDev = s.serviceDev := by rfl) (hr : t.requestDev = s.requestDev := by rfl)
    (hx : t.xyMode = s.xyMode := by rfl) (hd : t.intDefer = s.intDefer := by rfl) (hh : t.halt = s.halt := by rfl) :
    t.Inv where
  memWf := hm ▸ inv.memWf
  shielded := hx ▸ hd ▸ inv.shielded
  haltClear := hh ▸ hd ▸ inv.haltClear
  chain := (congrArg List.length hi).trans_le inv.chain
  service := hs ▸ hi ▸ inv.service
  grant := hr ▸ hi ▸ inv.grant

theorem perform_inv {s : State} (ev : BusEvent) (inv : s.Inv) : (s.perform ev).Inv :=
  (s.perform ev).inv_iff.mpr ⟨Shared.inv_perform ev inv.shared, inv.shielded, inv.haltClear⟩

theorem push16_inv {s : State} (v : Word) (inv : s.Inv) : (push16 v s).Inv :=
  (perform_inv _ (perform_inv _ inv)).congr

theorem enterHandler_inv {s : State} (target : Word) (cost : Nat) (inv : s.Inv) : (enterHandler target cost s).Inv :=
  (push16_inv s.pc inv).congr

theorem leaveHalt_inv {s : State} (inv : s.Inv) : (leaveHalt s).Inv := by
  rw [leaveHalt_eq]
  exact ⟨inv.memWf, inv.shielded, Bool.noConfusion, inv.chain, inv.service, inv.grant⟩

theorem acceptNmi_inv {s : State} (inv : s.Inv) : (acceptNmi s).Inv :=
  enterHandler_inv _ _ (leaveHalt_inv (s := { s with nmiPending := false }) inv.congr).congr

/-- An acknowledge takes the grant, then performs at most one operation. -/
theorem acknowledge_inv {s : State} (inv : s.Inv) : (acknowledge s).2.Inv := by
  unfold acknowledge
  split
  · split
    · exact perform_inv _ inv
    · exact inv
    · exact perform_inv _ inv
  · split
    · exact perform_inv _ ⟨inv.memWf, inv.shielded, inv.haltClear, inv.chain, inv.service, .inl rfl⟩
    · exact inv

theorem acceptIm0_inv {s : State} (v : BitVec 24) (inv : s.Inv) : (acceptIm0 v s).Inv := by
  unfold acceptIm0
  split
  · exact enterHandler_inv _ _ inv
  · split
    · exact inv.congr
    · exact enterHandler_inv _ _ inv

theorem acceptIm2_inv {s : State} (v : BitVec 24) (inv : s.Inv) : (acceptIm2 v s).Inv :=
  (perform_inv _ (perform_inv _ (push16_inv s.pc inv))).congr

theorem acceptIrq_inv {s : State} (inv : s.Inv) : (acceptIrq s).Inv := by
  have ack := acknowledge_inv (s := { leaveHalt s with iff1 := false, iff2 := false }) (leaveHalt_inv inv).congr
  unfold acceptIrq
  dsimp only
  split
  · exact acceptIm0_inv _ ack
  · exact enterHandler_inv _ _ ack
  · exact acceptIm2_inv _ ack

theorem haltedCycle_inv {s : State} (inv : s.Inv) : (haltedCycle s).Inv := (perform_inv _ inv).congr

/-- A core that is halted has no index mode in force, so there is no deferral to clear. -/
theorem endDefer_inv {s : State} (inv : s.Inv) (halted : s.halt = true) : s.endDefer.Inv :=
  inv.congr (hd := (inv.haltClear halted).symm)

theorem nonInstructionStep_inv {s t : State} (inv : s.Inv) (e : nonInstructionStep s = some t) : t.Inv := by
  unfold nonInstructionStep at e
  split at e
  · exact Option.some.inj e ▸ acceptNmi_inv inv
  · split at e
    · exact Option.some.inj e ▸ acceptIrq_inv inv
    · split at e
      · exact Option.some.inj e ▸ haltedCycle_inv (endDefer_inv inv ‹_›)
      · cases e

theorem halt_of_nonInstructionStep_none {s : State} (e : nonInstructionStep s = none) : s.halt = false := by
  unfold nonInstructionStep at e
  split at e
  · cases e
  · split at e
    · cases e
    · split at e
      · cases e
      · exact Bool.eq_false_iff.mpr ‹_›

theorem fetchOpcodes_inv {s : State} (n : Nat) (inv : s.Inv) : (fetchOpcodes n s).Inv := by
  induction n generalizing s with
  | zero => exact inv
  | succ n ih => exact ih (perform_inv _ inv).congr

theorem fetchArgs_inv {s : State} (n : Nat) (inv : s.Inv) : (fetchArgs n s).Inv := by
  induction n generalizing s with
  | zero => exact inv
  | succ n ih => exact ih (perform_inv _ inv).congr

theorem startInstr_inv {s : State} (inv : s.Inv) : s.endDefer.startInstr.Inv :=
  ⟨inv.memWf, fun h => absurd rfl h, fun _ => rfl, inv.chain, inv.service, inv.grant⟩

theorem fetchBytes_frame (fmt : Format) (s : State) :
    fetchBytes fmt s =
      { s with
        toShared := (fetchBytes fmt s).toShared
        pc := s.pc + BitVec.ofNat 16 (fmt.opcodeReads + fmt.argReads)
        rCount := s.rCount + BitVec.ofNat 7 fmt.opcodeReads } := by
  rw [fetchBytes, fetchArgs_frame, fetchOpcodes_frame, ← BitVec.ofNat_add_ofNat, BitVec.add_assoc]

/-- The bytes of an instruction are fetched in no index mode and with no deferral, and the core is as halted as before. -/
theorem fetchInstr_latches (s : State) :
    (fetchInstr s.endDefer).2.xyMode = none ∧ (fetchInstr s.endDefer).2.intDefer = false ∧
      (fetchInstr s.endDefer).2.halt = s.halt := by
  rw [fetchInstr, fetchBytes_frame]
  exact ⟨rfl, rfl, rfl⟩

theorem exec_inv {i : Instr} {s t : State} (inv : s.Inv) (hx : s.xyMode = none) (hd : s.intDefer = false)
    (hh : s.halt = false) (e : exec i s = .next t) : t.Inv := by
  have c := exec_control e
  have latches := controlAfter_latches (i := i) hx hd hh
  rw [← c] at latches
  exact t.inv_iff.mpr ⟨eq_effect e ▸ (effect_interacts i s).inv inv.shared, latches⟩

/-- Settles O7: a step that runs no instruction is made of operations that keep the invariant; one that runs an
instruction starts with the latches clear, and the meaning sets HALT or a deferral but not both. -/
theorem stepKeepsTheInvariant : Obligations.StepKeepsTheInvariant := by
  intro s t inv e
  have begun : s.beginStep.Inv := inv.congr
  cases h : nonInstructionStep s.beginStep with
  | some u =>
    rw [step_of_nonInstruction h] at e
    cases e
    exact nonInstructionStep_inv begun h
  | none =>
    rw [step_of_instruction h] at e
    obtain ⟨hx, hd, hh⟩ := fetchInstr_latches s.beginStep
    have fetched : (fetchInstr s.beginStep.endDefer).2.Inv :=
      fetchArgs_inv _ (fetchOpcodes_inv _ (startInstr_inv begun))
    exact exec_inv fetched hx hd (hh.trans (halt_of_nonInstructionStep_none h)) e

/-! ### The host's operations -/

theorem resetDevices_eq (d n : Nat) (h : Shared) :
    resetDevices d n h = ((List.range' d n).map BusEvent.deviceReset).foldl Shared.perform h := by
  induction n generalizing d h with
  | zero => rfl
  | succ n ih => exact ih (d + 1) (h.perform (.deviceReset d))

/-- R540: the reset state with a chain of `n` devices, memory and the host's part kept, before the devices are reset. -/
def State.cleared (s : State) (n : Nat) : State :=
  { State.reset with intState := List.replicate n 0, mem := s.mem, host := s.host, calls := s.calls }

theorem hostReset_eq (n : Nat) (s : State) :
    hostReset n s =
      if n ≤ Config.maxDaisy then some ((s.cleared n).after ((List.range n).map BusEvent.deviceReset)) else none := by
  rw [hostReset, resetDevices_eq, State.after_eq, List.range_eq_range']
  rfl

theorem after_inv {s : State} (evs : List BusEvent) (inv : s.Inv) : (s.after evs).Inv := by
  induction evs generalizing s with
  | nil => exact inv
  | cons ev evs ih => exact ih (perform_inv ev inv)

/-- A controller of idle devices grants and serves none. -/
theorem firstIeo_replicate_zero (d n : Nat) : firstIeo d (List.replicate n 0) = none := by
  induction n generalizing d with
  | zero => rfl
  | succ n ih => exact ih (d + 1)

theorem cleared_inv {s : State} {n : Nat} (w : s.mem.wf = true) (hn : n ≤ Config.maxDaisy) : (s.cleared n).Inv where
  memWf := w
  shielded h := absurd rfl h
  haltClear := Bool.noConfusion
  chain := List.length_replicate.trans_le hn
  service := (firstIeo_replicate_zero 0 n).symm
  grant := .inl rfl

theorem setRegister_frame {reg : PortReg} {v : Word} {s t : State} (e : setRegister reg v s = some t) :
    t.toShared = s.toShared ∧ t.prepc = s.prepc ∧ t.intDefer = s.intDefer ∧ t.xyMode = s.xyMode ∧ t.cost = s.cost := by
  cases reg with
  | im =>
    obtain ⟨m, -, rfl⟩ := Option.map_eq_some_iff.mp e
    exact ⟨rfl, rfl, rfl, rfl, rfl⟩
  | _ => cases e <;> exact ⟨rfl, rfl, rfl, rfl, rfl⟩

theorem importContext_inv {n : Nat} {x : Context} {s t : State} (inv : s.Inv) (clear : s.intDefer = false)
    (e : importContext n x s = some t) : t.Inv := by
  unfold importContext at e
  split at e
  · rename_i h
    simp only [Bool.and_eq_true, decide_eq_true_eq, Context.valid, Bool.or_eq_true, Option.isNone_iff_eq_none] at h
    obtain ⟨-, ⟨⟨⟨-, hl⟩, -⟩, hs⟩, hg⟩ := h
    cases e
    exact ⟨inv.memWf, inv.shielded, fun _ => clear, (List.length_take_le _ _).trans inv.chain, hs, hg⟩
  · cases e

/-- Settles O9: a reset performs operations on a cleared state, the setters and changes of memory are what the host
also does inside operations, and a register write or an import touches neither memory nor a deferral. -/
theorem hostOperationsKeepTheInvariant : Obligations.HostOperationsKeepTheInvariant := by
  intro s inv
  refine ⟨fun n t e => ?_, fun level => ?_, fun line level report t e => ?_, fun a v => ?_, fun clear reg v t e => ?_,
    fun clear n x t e => importContext_inv inv clear e⟩
  · rw [hostReset_eq] at e
    split at e
    · cases e
      exact after_inv _ (cleared_inv inv.memWf ‹_›)
    · cases e
  · exact (setNmiLine level s).inv_iff.mpr ⟨Shared.inv_setNmiLine level inv.shared, inv.shielded, inv.haltClear⟩
  · obtain ⟨g, hg, rfl⟩ := Option.map_eq_some_iff.mp e
    exact (State.inv_iff _).mpr ⟨Shared.inv_setIrqLine hg inv.shared, inv.shielded, inv.haltClear⟩
  · exact (setMemory a v s).inv_iff.mpr ⟨Shared.inv_act (.setMemory a v) inv.shared, inv.shielded, inv.haltClear⟩
  · obtain ⟨hs, -, hd, hx, -⟩ := setRegister_frame e
    exact t.inv_iff.mpr ⟨hs ▸ inv.shared, hx ▸ hd ▸ inv.shielded, fun _ => hd.trans clear⟩

end Sys2Proof.Machine

namespace Sys2Proof.Machine

/-- Settles O12: the devices are reset by operations of their own, so what a chain's reset leaves is what those
operations leave of the cleared state. -/
theorem hostResetConfiguresTheChain : Obligations.HostResetConfiguresTheChain := by
  intro s n
  rw [hostReset_eq]
  refine ⟨fun hn => ⟨_, if_pos hn, ?_, ?_, rfl, fun k => ?_, fun k a => ?_⟩, fun hn => if_neg (Nat.not_le_of_lt hn)⟩
  · exact (State.after_nDev _ _).trans List.length_replicate
  · exact State.after_bus _ _
  · rw [after_of_keepsLines (s := s.cleared n) k]
    exact ⟨fun d hd => by simp [State.cleared, hd], rfl, rfl, rfl, rfl, rfl⟩
  · exact Shared.peek_congr (after_mem (s := s.cleared n) k (by simp)) a

/-! ### Writing registers -/

theorem setR8_keepsExcept (s : State) (r : Reg8) (v : Byte) : KeepsExceptR8 r s (s.setR8 r v) :=
  ⟨by cases r <;> rfl, fun _ h => s.r8_setR8_other v h⟩

theorem setRp_keepsExcept (s : State) (p : RegP) (v : Word) : KeepsExceptRp p s (s.setRp p v) :=
  ⟨by cases p <;> rfl, fun _ h => s.rp_setRp_other v h⟩

theorem setXy_keepsExcept (s : State) (x : Index) (v : Word) : KeepsExceptXy x s (s.setXy x v) :=
  ⟨by cases x <;> rfl, fun _ h => s.xy_setXy_other v h⟩

theorem setHalf_keepsExcept (s : State) (x : Index) (k : Half) (v : Byte) : KeepsExceptHalf x k s (s.setHalf x k v) :=
  ⟨by cases k <;> exact setXy_keepsExcept s x _, fun _ h => s.half_setHalf_other x v h⟩

/-- Settles O13: a register written reads back, every other one is another field or another half, and nothing else is
written. -/
theorem writingAHalfLeavesTheOtherHalf : Obligations.WritingAHalfLeavesTheOtherHalf := fun s =>
  ⟨fun r v => ⟨s.r8_setR8_same r v, setR8_keepsExcept s r v⟩, fun p v => ⟨s.rp_setRp_same p v, setRp_keepsExcept s p v⟩,
    fun _ => ⟨rfl, rfl, rfl, rfl, rfl, rfl, rfl, rfl, rfl⟩, fun x v => ⟨s.xy_setXy_same x v, setXy_keepsExcept s x v⟩,
    fun x k v => ⟨s.half_setHalf_same x k v, setHalf_keepsExcept s x k v⟩⟩

/-! ### Steps that accept no interrupt -/

theorem nonInstructionStep_of_noAcceptance {s : State} (n : s.NoAcceptance) :
    nonInstructionStep s = if s.halt then some (haltedCycle s.endDefer) else none := by
  obtain hd | ⟨hn, hi | hr⟩ := n
  · exact nonInstructionStep_deferred hd
  · simp [nonInstructionStep, hn, hi]
  · simp [nonInstructionStep, hn, hr]

/-- Starting the record of a step changes no condition of acceptance. -/
theorem nonInstructionStep_beginStep_of_noAcceptance {s : State} (n : s.NoAcceptance) :
    nonInstructionStep s.beginStep = if s.halt then some (haltedCycle s.beginStep.endDefer) else none :=
  nonInstructionStep_of_noAcceptance (s := s.beginStep) n

theorem step_of_halted {s : State} (h : s.halt = true) (n : s.NoAcceptance) :
    step s = .next (haltedCycle s.beginStep.endDefer) :=
  step_of_nonInstruction ((nonInstructionStep_beginStep_of_noAcceptance n).trans (if_pos h))

theorem step_of_running {s : State} (h : s.halt = false) (n : s.NoAcceptance) :
    step s = exec s.beginStep.endDefer.nextInstr (fetchInstr s.beginStep.endDefer).2 :=
  step_of_instruction ((nonInstructionStep_beginStep_of_noAcceptance n).trans (if_neg (Bool.eq_false_iff.mp h)))

/-- Settles O18: with no acceptance the step of a halted core is the halted cycle. -/
theorem haltedCycleOnlyRefreshes : Obligations.HaltedCycleOnlyRefreshes := by
  intro s h n
  have count : s.rCount + 1 = BitVec.ofNat 7 ((s.rCount.toNat + 1) % 128) := by bv_omega
  rw [step_of_halted h n, ← count]
  rfl

/-! ### What an interrupt latch can change -/

/-- Two shared parts that differ at most in the NMI latch, the IRQ line and the grant. -/
def Shared.Alike (h g : Shared) : Prop :=
  g = { h with nmiPending := g.nmiPending, irqLine := g.irqLine, requestDev := g.requestDev }

/-- Two states that differ at most there. -/
def State.Alike (s t : State) : Prop := t = { s with toShared := t.toShared } ∧ s.toShared.Alike t.toShared

theorem Shared.alike_reportState {h g : Shared} (e : h.Alike g) (d : Nat) (v : Byte) :
    (h.reportState d v).Alike (g.reportState d v) := by
  rw [e]
  unfold Shared.reportState
  dsimp only
  split
  · rfl
  · split <;> rfl

theorem Shared.alike_act {h g : Shared} (e : h.Alike g) (x : HostAct) : (h.act x).Alike (g.act x) := by
  cases x with
  | setMemory a v =>
    rw [e]
    rfl
  | setNmiLine level =>
    rw [e]
    simp only [Shared.act, Shared.setNmiLine]
    split <;> rfl
  | setIrqLine line level report =>
    have hn : g.nDev = h.nDev := by rw [e]; rfl
    have recorded : ({ h with irqLine := level } : Shared).Alike { g with irqLine := level } := by rw [e]; rfl
    simp only [Shared.act, Shared.setIrqLine, hn]
    split
    · exact e
    · split
      · exact recorded
      · cases report with
        | none => exact recorded
        | some r => exact Shared.alike_reportState recorded r.1 r.2

theorem Shared.alike_acts {h g : Shared} (e : h.Alike g) (xs : List HostAct) :
    (xs.foldl Shared.act h).Alike (xs.foldl Shared.act g) := by
  induction xs generalizing h g with
  | nil => exact e
  | cons x xs ih => exact ih (Shared.alike_act e x)

theorem Shared.alike_perform {h g : Shared} (e : h.Alike g) (ev : BusEvent) : (h.perform ev).Alike (g.perform ev) := by
  rw [e]
  exact Shared.alike_acts (by rfl) h.callback.acts

/-- Programs hear the same from hosts that are alike, and leave them alike. -/
theorem HostProgram.alike {P : BusEvent → Prop} {F : Shared → State} (hF : HostProgram P F) {h g : Shared} (e : h.Alike g) :
    (F h).Alike (F g) := by
  induction hF generalizing h g with
  | done r => exact ⟨rfl, e⟩
  | perform _ _ ih => exact ih (Shared.alike_perform e _)
  | @hear a k _ ih =>
    have same : g.hear a = h.hear a := by rw [e]; rfl
    dsimp only
    rw [same]
    exact ih (h.hear a) e
  | @hearPort p k _ ih =>
    have same : g.hearPort p = h.hearPort p := by rw [e]; rfl
    dsimp only
    rw [same]
    exact ih (h.hearPort p) e
  | @consult k _ ih =>
    have same : g.nDev = h.nDev ∧ g.serviceDev = h.serviceDev := by rw [e]; exact ⟨rfl, rfl⟩
    dsimp only
    rw [same.1, same.2]
    exact ih h.nDev h.serviceDev e

section
variable {P Q : BusEvent → Prop} {m : State → State}

theorem Interacts.alike (hm : Interacts P m) {s t : State} (e : s.Alike t) : (m s).Alike (m t) := by
  rw [e.1]
  exact (hm s).alike e.2

theorem HostProgram.mono (imp : ∀ ev, P ev → Q ev) {F : Shared → State} (hF : HostProgram P F) : HostProgram Q F := by
  induction hF with
  | done r => exact .done r
  | perform allowed _ ih => exact .perform (imp _ allowed) ih
  | hear a _ ih => exact .hear a ih
  | hearPort p _ ih => exact .hearPort p ih
  | consult _ ih => exact .consult ih

theorem Interacts.fetchOpcodes (opcode : ∀ a v, P (.memRead .opcode a v)) (n : Nat) : Interacts P (fetchOpcodes n) := by
  induction n with
  | zero => exact .done
  | succ n ih =>
    exact ih.comp fun s => .hear s.pc
      (k := fun v h =>
        { s with toShared := h.perform (.memRead .opcode s.pc v), pc := s.pc + 1, rCount := s.rCount + 1 }) fun v =>
      .perform (opcode s.pc v) (.done { s with pc := s.pc + 1, rCount := s.rCount + 1 })

theorem Interacts.fetchArgs (arg : ∀ a v, P (.memRead .arg a v)) (n : Nat) : Interacts P (fetchArgs n) := by
  induction n with
  | zero => exact .done
  | succ n ih =>
    exact ih.comp fun s => .hear s.pc
      (k := fun v h => { s with toShared := h.perform (.memRead .arg s.pc v), pc := s.pc + 1 }) fun v =>
      .perform (arg s.pc v) (.done { s with pc := s.pc + 1 })

theorem Interacts.haltedCycle (opcode : ∀ a v, P (.memRead .opcode a v)) : Interacts P haltedCycle := fun s =>
  .hear s.pc
    (k := fun v h => { s with toShared := h.perform (.memRead .opcode s.pc v), rCount := s.rCount + 1, cost := 4 }) fun v =>
    .perform (opcode s.pc v) (.done { s with rCount := s.rCount + 1, cost := 4 })

end

theorem State.Alike.hear {s t : State} (e : s.Alike t) (a : Word) : t.hear a = s.hear a := by
  rw [e.2]
  rfl

theorem State.Alike.nextInstr {s t : State} (e : s.Alike t) : t.nextInstr = s.nextInstr := by
  have hp : t.pc = s.pc := by rw [e.1]
  have hx : t.xyMode = s.xyMode := by rw [e.1]
  have later (n : Nat) : (fetchArgs n s).Alike (fetchArgs n t) :=
    (Interacts.fetchArgs (P := fun _ => True) (fun _ _ => trivial) n).alike e
  have one : ∀ a, (fetchArg t).hear a = (fetchArg s).hear a := (later 1).hear
  simp only [State.nextInstr, hp, hx, e.hear, one, (later 2).hear, (later 3).hear]

/-- A step that defers interrupts reaches the host as a program does, the same one whatever is latched, lined up or
granted. -/
theorem step_deferred {s : State} (hd : s.intDefer = true) :
    ∃ m, Interacts (fun _ => True) m ∧ ∀ t, s.Alike t → step t = .next (m t.beginStep.endDefer) := by
  have deferred {t : State} (e : s.Alike t) : t.NoAcceptance := .inl (by rw [e.1]; exact hd)
  have halted {t : State} (e : s.Alike t) : t.halt = s.halt := by rw [e.1]
  cases h : s.halt with
  | true =>
    exact ⟨haltedCycle, .haltedCycle fun _ _ => trivial, fun t e => step_of_halted ((halted e).trans h) (deferred e)⟩
  | false =>
    refine ⟨fun t => effect s.beginStep.endDefer.nextInstr
        (fetchBytes s.beginStep.endDefer.nextInstr.format t.startInstr), ?_, fun t e => ?_⟩
    · refine Interacts.comp (fun u => (effect_interacts _ u).mono fun _ _ => trivial)
        (Interacts.comp ?_ (.of_registers fun _ _ => rfl))
      exact (Interacts.fetchArgs (fun _ _ => trivial) _).comp (.fetchOpcodes (fun _ _ => trivial) _)
    · have same : t.beginStep.endDefer.nextInstr = s.beginStep.endDefer.nextInstr := by
        refine State.Alike.nextInstr ⟨?_, ?_⟩
        · rw [e.1]
          rfl
        · rw [Shared.Alike, State.endDefer_toShared, State.beginStep_toShared, e.2]
          rfl
      rw [step_of_running ((halted e).trans h) (deferred e), exec_eq_effect, fetchInstr, same]

/-- Settles O21: a deferring step is a program over the host, the same one for both states, and a program carries two
shared parts that differ in the latch, the line and the grant to two that differ there alone. -/
theorem deferredStepIgnoresInterrupts : Obligations.DeferredStepIgnoresInterrupts := by
  intro s p q g hd
  obtain ⟨m, hm, hstep⟩ := step_deferred hd
  let u : State := { s with nmiPending := p, irqLine := q, requestDev := g }
  obtain ⟨registers, shared⟩ := hm.alike (s := s.beginStep.endDefer) (t := u.beginStep.endDefer) ⟨rfl, rfl⟩
  refine ⟨_, _, hstep s ⟨rfl, rfl⟩, hstep u ⟨rfl, rfl⟩, ?_, fun k => ?_⟩
  · exact registers.trans (congrArg (fun h => { m s.beginStep.endDefer with toShared := h }) shared)
  · obtain ⟨evs, -, h⟩ := hm.performs u.beginStep.endDefer
    rw [h, after_of_keepsLines (s := u.beginStep.endDefer) k]
    exact ⟨rfl, rfl, rfl⟩

/-! ### Operations on the host -/

theorem foldl_hostDoes (xs : List HostAct) (s : State) :
    xs.foldl hostDoes s = { s with toShared := xs.foldl Shared.act s.toShared } := by
  induction xs generalizing s with
  | nil => rfl
  | cons x xs ih => rw [List.foldl_cons, ih, hostDoes_eq, List.foldl_cons]

/-- An operation in which the host does nothing but answer. -/
theorem perform_of_no_acts {s : State} (idle : s.callback.acts = []) (ev : BusEvent) :
    s.perform ev =
      { s with
        mem := (s.perform ev).mem
        host := s.host.drop 1
        calls := s.calls + 1
        bus := s.bus ++ [ev] } := by
  simp only [State.perform, Shared.perform, idle, List.foldl_nil, List.drop_one]

theorem peek_perform_of_no_acts {s : State} (idle : s.callback.acts = []) (ev : BusEvent) (b : Word) :
    (s.perform ev).peek b = written [ev] b (s.peek b) := by
  simp only [State.perform, Shared.perform, idle, List.foldl_nil]
  cases ev with
  | memWrite a v => exact Shared.peek_poke s.toShared a v b
  | _ => rfl

theorem after_plain {s : State} (k : s.PlainMemory) (evs : List BusEvent) : (s.after evs).PlainMemory := by
  induction evs generalizing s with
  | nil => exact k
  | cons ev evs ih => exact ih (perform_plain k ev)

/-- Settles O22: an operation is used up and recorded, and then the host's calls are those it makes between steps. -/
theorem operationsOnTheHost : Obligations.OperationsOnTheHost := by
  intro s ev evs a p
  refine ⟨⟨rfl, s.after_bus [ev], s.after_host [ev], s.after_calls [ev]⟩, fun idle => ?_, fun c cs e => ?_,
    fun c cs n e answer => ?_, fun silent => ?_, fun k => peek_after k evs, fun k => ?_⟩
  · have idle : s.callback.acts = [] := by
      obtain e | ⟨c, cs, e, ha⟩ := idle
      · simp only [Shared.callback, e, List.headD_nil]
      · simp only [Shared.callback, e, List.headD_cons, ha]
    exact ⟨peek_perform_of_no_acts idle ev, perform_of_no_acts idle ev⟩
  · rw [foldl_hostDoes]
    simp only [State.after_cons, State.after_nil, State.perform, Shared.perform, Shared.callback, e, List.headD_cons,
      List.tail_cons, List.foldl_nil]
  · simp only [Shared.hear, Shared.hearPort, Shared.hearDatum, Shared.callback, e, List.headD_cons, answer, true_and]
  · have silent : s.callback.answer = none := by
      obtain e | ⟨c, cs, e, ha⟩ := silent
      · simp only [Shared.callback, e, List.headD_nil]
      · simp only [Shared.callback, e, List.headD_cons, ha]
    simp only [Shared.hear, Shared.hearPort, Shared.hearDatum, silent, true_and]
  · rw [hear_of_plain (after_plain k evs), peek_after k.1]

end Sys2Proof.Machine

namespace Sys2Proof.Machine

/-! ### Completion -/

/-- What there is to show of an instruction that completes: its next state, and that what is shared with the host is as
the operations leave it. -/
theorem completes_of_after {i : Instr} {s t : State} {cost : Nat} {evs : List BusEvent} {post : State → State → Prop}
    (e : exec i s = .next t) (hc : t.cost = cost) (hs : t.toShared = (s.after evs).toShared) (hp : post (s.after evs) t) :
    Completes i s cost evs post :=
  ⟨t, e, hc, (congrArg Shared.bus hs).trans (s.after_bus evs), fun k b =>
    (Shared.peek_congr (congrArg Shared.mem hs) b).trans (peek_after k evs b), hp⟩

/-! ### PUSH and POP -/

/-- R108: a push leaves its word below the old SP, the low byte first, and no other byte changed. -/
theorem storedWord_of_pushEvs {s t : State} {v : Word} (h : t.mem = (s.after (s.pushEvs v)).mem) :
    StoredWord (s.sp - 2) v s t := by
  intro k
  have read (b : Word) : t.peek b = if s.sp - 2 = b then loByte v else if s.sp - 1 = b then hiByte v else s.peek b :=
    (Shared.peek_congr h b).trans (peek_after k _ b)
  have next : s.sp - 2 + 1 = s.sp - 1 := by bv_omega
  have apart : s.sp - 2 ≠ s.sp - 1 := by bv_omega
  rw [next]
  exact ⟨by rw [read, if_pos rfl], by rw [read, if_neg apart, if_pos rfl], fun b h1 h2 => by
    rw [read, if_neg h1.symm, if_neg h2.symm]⟩

theorem pushed_push16 (v : Word) (cost : Nat) (s : State) :
    Pushed v s (s.after (s.pushEvs v)) ((push16 v s).charge cost) :=
  ⟨storedWord_of_pushEvs rfl, rfl⟩

/-- Settles O38: a push is its two writes with SP lowered by 2, a pop its two reads with SP raised by 2. -/
theorem pushAndPop : Obligations.PushAndPop := by
  intro s
  refine ⟨fun q => ?_, fun x => ?_, fun q => ?_, fun x => ?_⟩
  · exact completes_of_after rfl rfl rfl (pushed_push16 _ 11 s)
  · exact completes_of_after rfl rfl rfl (pushed_push16 _ 11 s)
  · refine completes_of_after rfl rfl ((pop16 s).2.setRq_toShared q _) ⟨(pop16 s).2.rq_setRq_same q _, fun p h => ?_, ?_⟩
    · exact ((pop16 s).2.rq_setRq_other _ h).trans (by cases p <;> rfl)
    · cases q <;> rfl
  · refine completes_of_after rfl rfl ((pop16 s).2.setXy_toShared x _) ⟨?_, fun y h => ?_, ?_⟩
    · exact (pop16 s).2.xy_setXy_same x _
    · exact ((pop16 s).2.xy_setXy_other _ h).trans (by cases y <;> rfl)
    · cases x <;> rfl

end Sys2Proof.Machine

namespace Sys2Proof.Machine

/-! ### Bits of bytes as numbers -/

theorem getLsbD_eq_decide (v : Byte) (k : Nat) : v.getLsbD k = decide (v.toNat / 2 ^ k % 2 = 1) :=
  Nat.testBit_eq_decide_div_mod_eq

theorem getLsbD_seven (v : Byte) : v.getLsbD 7 = decide (128 ≤ v.toNat) := by
  rw [getLsbD_eq_decide, decide_eq_decide]
  have := v.isLt
  omega

theorem toInt_eq (v : Byte) : v.toInt = (v.toNat : Int) - 256 * ((v.toNat / 128 : Nat) : Int) := by
  have := v.isLt
  rw [BitVec.toInt_eq_toNat_cond]
  split <;> omega

theorem xor_decide (p q : Prop) [Decidable p] [Decidable q] : (decide p ^^ decide q) = decide (¬(p ↔ q)) := by
  by_cases p <;> by_cases q <;> simp_all

theorem carryIn_eq_toNat (c : Bool) : carryIn c = c.toNat := by cases c <;> rfl

/-- R65: bit 4 of `a ^ v ^ res` is the carry past bit 3. -/
theorem halfCarry_of_sum {a v res : Byte} {c : Nat} (hc : c ≤ 1) (h : res.toNat = (a.toNat + v.toNat + c) % 256) :
    (a ^^^ v ^^^ res).getLsbD 4 = decide (15 < a.toNat % 16 + v.toNat % 16 + c) := by
  simp only [BitVec.getLsbD_xor]
  simp only [getLsbD_eq_decide, xor_decide, decide_eq_decide]
  omega

theorem halfBorrow_of_difference {a v res : Byte} {c : Nat} (hc : c ≤ 1)
    (h : res.toNat = (a.toNat + 512 - v.toNat - c) % 256) :
    (a ^^^ v ^^^ res).getLsbD 4 = decide (a.toNat % 16 < v.toNat % 16 + c) := by
  have hv := v.isLt
  simp only [BitVec.getLsbD_xor]
  simp only [getLsbD_eq_decide, xor_decide, decide_eq_decide]
  omega

theorem overflow_of_sum {a v res : Byte} {c : Nat} (hc : c ≤ 1) (h : res.toNat = (a.toNat + v.toNat + c) % 256) :
    ((a ^^^ res) &&& (v ^^^ res)).getLsbD 7 =
      decide (a.toInt + v.toInt + c < -128 ∨ 127 < a.toInt + v.toInt + c) := by
  have ha := a.isLt
  have hv := v.isLt
  simp only [BitVec.getLsbD_and, BitVec.getLsbD_xor]
  simp only [getLsbD_seven, xor_decide, ← Bool.decide_and, decide_eq_decide, toInt_eq]
  omega

theorem overflow_of_difference {a v res : Byte} {c : Nat} (hc : c ≤ 1)
    (h : res.toNat = (a.toNat + 512 - v.toNat - c) % 256) :
    ((a ^^^ v) &&& (a ^^^ res)).getLsbD 7 =
      decide (a.toInt - v.toInt - c < -128 ∨ 127 < a.toInt - v.toInt - c) := by
  have ha := a.isLt
  have hv := v.isLt
  simp only [BitVec.getLsbD_and, BitVec.getLsbD_xor]
  simp only [getLsbD_seven, xor_decide, ← Bool.decide_and, decide_eq_decide, toInt_eq]
  omega

/-! ### F from its parts -/

theorem when_false (m : Byte) : when m false = 0#8 := rfl

@[simp] theorem getLsbD_when (m : Byte) (p : Bool) (k : Nat) : (when m p).getLsbD k = (p && m.getLsbD k) := by
  cases p <;> simp [when]

@[simp] theorem getElem_when (m : Byte) (p : Bool) (k : Nat) (h : k < 8) : (when m p)[k] = (p && m[k]) :=
  getLsbD_when m p k

theorem and_maskS_ne_zero (v : Byte) : (v &&& maskS != 0) = v.getLsbD 7 := by
  revert v
  decide

theorem beq_zero_eq_decide (v : Byte) : (v == 0) = decide (v.toNat = 0) := by
  rw [Bool.eq_iff_iff, beq_iff_eq, decide_eq_true_eq, ← BitVec.toNat_inj]
  rfl

/-- The flags of an F that takes S, Z, Y and X from a result and the other bits from elsewhere (R51, R60). -/
theorem flags_of_sz (res x : Byte) (n p c : Bool) (f : Byte)
    (h : f = sz res ||| when maskN n ||| (x &&& maskH) ||| when maskPV p ||| when maskC c) :
    ResultFlags res f ∧ flagH f = x.getLsbD 4 ∧ flagPV f = p ∧ flagN f = n ∧ flagC f = c := by
  subst h
  rw [ResultFlags, ← getLsbD_seven, ← beq_zero_eq_decide]
  simp [flagS, flagZ, flagY, flagH, flagX, flagPV, flagN, flagC, sz, maskS, maskZ, maskH, maskPV, maskN, maskC, maskYX]

theorem carryIn_le_one (c : Bool) : carryIn c ≤ 1 := by cases c <;> decide

theorem add8_result (a v : Byte) (c : Bool) : SumResult a v c (add8 a v c).1 (add8 a v c).2 := by
  have hc := carryIn_le_one c
  have hres : (add8 a v c).1.toNat = (a.toNat + v.toNat + carryIn c) % 256 := by
    rw [carryIn_eq_toNat]
    exact BitVec.toNat_ofNat ..
  obtain ⟨hr, hh, hp, hn, hcy⟩ := flags_of_sz (add8 a v c).1 (a ^^^ v ^^^ (add8 a v c).1) false
    ((a ^^^ (add8 a v c).1) &&& (v ^^^ (add8 a v c).1) &&& maskS != 0) (decide (255 < a.toNat + v.toNat + c.toNat))
    (add8 a v c).2 (by rw [when_false, BitVec.or_zero]; rfl)
  refine ⟨hres, hr, hh.trans (halfCarry_of_sum hc hres), hp.trans ?_, hn, hcy.trans ?_⟩
  · rw [and_maskS_ne_zero, overflow_of_sum hc hres]
  · rw [carryIn_eq_toNat]

theorem sub8_result (a v : Byte) (c : Bool) : DifferenceResult a v c (sub8 a v c).1 (sub8 a v c).2 := by
  have hv := v.isLt
  have hc := carryIn_le_one c
  have hres : (sub8 a v c).1.toNat = (a.toNat + 512 - v.toNat - carryIn c) % 256 := by
    rw [carryIn_eq_toNat] at *
    simp only [sub8, BitVec.toNat_ofInt]
    omega
  obtain ⟨hr, hh, hp, hn, hcy⟩ := flags_of_sz (sub8 a v c).1 (a ^^^ v ^^^ (sub8 a v c).1) true
    ((a ^^^ v) &&& (a ^^^ (sub8 a v c).1) &&& maskS != 0) (decide ((a.toNat : Int) - v.toNat - c.toNat < 0)) (sub8 a v c).2 rfl
  refine ⟨hres, hr, hh.trans (halfBorrow_of_difference hc hres), hp.trans ?_, hn, hcy.trans ?_⟩
  · rw [and_maskS_ne_zero, overflow_of_difference hc hres]
  · rw [carryIn_eq_toNat, decide_eq_decide]
    omega

/-! ### Logic and the comparison -/

theorem parityEven_eq_evenOnes (v : Byte) : parityEven v = evenOnes v := by
  revert v
  decide

theorem logicFlags_szp (res : Byte) (h : Bool) : LogicFlags h res (szp res ||| when maskH h) := by
  have half : when maskH h &&& maskH = when maskH h := by cases h <;> rfl
  obtain ⟨hr, hh, hp, hn, hc⟩ := flags_of_sz res (when maskH h) false (parityEven res) false (szp res ||| when maskH h) (by
    rw [half, when_false, when_false, BitVec.or_zero, BitVec.or_zero, szp]
    ac_rfl)
  exact ⟨hr, hh.trans (by simp [maskH]), hp.trans (parityEven_eq_evenOnes res), hn, hc⟩

theorem logicFlags_szp_plain (res : Byte) : LogicFlags false res (szp res) := by
  simpa only [when_false, BitVec.or_zero] using logicFlags_szp res false

/-- R240: A and F after each of the eight operations, by arithmetic on numbers. -/
theorem alu8_result (o : AluOp) (a f v : Byte) : AluResult o a f v (alu8 o a f v).1 (alu8 o a f v).2 := by
  cases o with
  | add => exact add8_result a v false
  | adc => exact add8_result a v (flagC f)
  | sub => exact sub8_result a v false
  | sbc => exact sub8_result a v (flagC f)
  | and => exact ⟨fun k _ => BitVec.getLsbD_and, logicFlags_szp _ true⟩
  | xor => exact ⟨fun k _ => BitVec.getLsbD_xor, logicFlags_szp_plain _⟩
  | or => exact ⟨fun k _ => BitVec.getLsbD_or, logicFlags_szp_plain _⟩
  | cp =>
    obtain ⟨-, -, -, -, hn, -⟩ := sub8_result a v false
    refine ⟨rfl, _, _, sub8_result a v false, ?_⟩
    simp only [flagN] at hn
    simp [alu8, flagS, flagZ, flagY, flagH, flagX, flagPV, flagN, flagC, maskYX]
    simpa using hn

theorem aluOn_keepsExceptAF (o : AluOp) (v : Byte) (cost : Nat) (s : State) : KeepsExceptAF s (aluOn o v cost s) := rfl

/-- Settles O42: in all five forms the operation is `alu8` on A, F and the operand, and its flags are those of the
arithmetic (`alu8_result`). -/
theorem arithmeticAndLogicOnA : Obligations.ArithmeticAndLogicOnA := by
  intro s o
  refine ⟨fun r => ?_, fun n => ?_, fun x k => ?_, ?_, fun x d => ?_⟩
  · have e : exec (aluR o r) s = .next (aluOn o (s.r8 r) 4 s) := by cases o <;> rfl
    exact completes_of_after e rfl rfl ⟨alu8_result o s.a s.f _, rfl⟩
  · have e : exec (aluN o n) s = .next (aluOn o n 7 s) := by cases o <;> rfl
    exact completes_of_after e rfl rfl ⟨alu8_result o s.a s.f _, rfl⟩
  · have e : exec (aluXyHalf o x k) s = .next (aluOn o (s.half x k) 4 s) := by cases o <;> rfl
    exact completes_of_after e rfl rfl ⟨alu8_result o s.a s.f _, rfl⟩
  · have e : exec (aluIndHl o) s = .next (aluOnMem o s.hl 7 s) := by cases o <;> rfl
    exact completes_of_after e rfl rfl ⟨alu8_result o s.a s.f _, rfl⟩
  · have e : exec (aluIndXy o x d) s = .next (aluOnMem o (s.ea x d) 15 s) := by cases o <;> rfl
    exact completes_of_after e rfl rfl ⟨alu8_result o s.a s.f _, rfl⟩

/-! ### Decimal adjustment -/

theorem and_carryAndSubtract (f : Byte) : f &&& (maskC ||| maskN) = when maskN (flagN f) ||| when maskC (flagC f) := by
  revert f
  decide

theorem when_or (m : Byte) (p q : Bool) : when m (p || q) = when m p ||| when m q := by
  cases p <;> cases q <;> simp [when]

theorem lowNibble_toNat (a : Byte) : (a &&& 0x0F).toNat = a.toNat % 16 := by
  rw [BitVec.toNat_and]
  exact Nat.and_two_pow_sub_one_eq_mod a.toNat 4

/-- The byte that DAA adds or subtracts (R300), as `daa` computes it; `daa_result` ties it to `daa`. -/
def daaByte (a : Byte) (h c : Bool) : Byte :=
  when 0x06 (h || decide (9 < (a &&& 0x0F).toNat)) + when 0x60 (c || decide (0x99 < a.toNat))

theorem daaByte_toNat (a : Byte) (h c : Bool) : (daaByte a h c).toNat = daaCorrection a.toNat h c := by
  rw [daaByte, lowNibble_toNat, daaCorrection]
  cases (h || decide (9 < a.toNat % 16)) <;> cases (c || decide (0x99 < a.toNat)) <;> simp [when]

theorem daa_result (a f : Byte) : DaaResult a f (daa a f).1 (daa a f).2 := by
  have ha := a.isLt
  have hcorr := daaByte_toNat a (flagH f) (flagC f)
  have small : daaCorrection a.toNat (flagH f) (flagC f) ≤ 102 := by
    unfold daaCorrection
    split <;> split <;> omega
  obtain ⟨hr, hh, hp, hn, hc⟩ := flags_of_sz (daa a f).1 (a ^^^ (daa a f).1) (flagN f) (parityEven (daa a f).1)
    (flagC f || decide (a.toNat > 0x99)) (daa a f).2 (by
      rw [when_or]
      change (f &&& (maskC ||| maskN)) ||| _ ||| _ ||| szp _ = _
      rw [and_carryAndSubtract, szp]
      ac_rfl)
  refine ⟨?_, hr, hh.trans ?_, hp.trans (parityEven_eq_evenOnes _), hn, hc⟩
  · have t : (daa a f).1 =
        if flagN f then a - daaByte a (flagH f) (flagC f) else a + daaByte a (flagH f) (flagC f) := rfl
    rw [t]
    split
    · rw [BitVec.toNat_sub, hcorr]
      omega
    · rw [BitVec.toNat_add, hcorr]
  · simp

/-- R300 in numbers: the correction of the binary sum of two packed decimal numbers gives the decimal digits of the
sum. -/
theorem decimal_sum {a v c r t : Nat} (ha1 : a / 16 ≤ 9) (ha0 : a % 16 ≤ 9) (hv1 : v / 16 ≤ 9) (hv0 : v % 16 ≤ 9)
    (hc : c ≤ 1) (hr : r = (a + v + c) % 256)
    (ht : t = (r + ((if 15 < a % 16 + v % 16 + c ∨ 9 < r % 16 then 6 else 0) +
      (if 255 < a + v + c ∨ 153 < r then 96 else 0))) % 256) :
    t = 16 * ((a / 16 * 10 + a % 16 + (v / 16 * 10 + v % 16) + c) / 10 % 10) +
      (a / 16 * 10 + a % 16 + (v / 16 * 10 + v % 16) + c) % 10 := by
  obtain lo | lo : a % 16 + v % 16 + c ≤ 9 ∨ 10 ≤ a % 16 + v % 16 + c := by omega
  · have low : ¬(15 < a % 16 + v % 16 + c ∨ 9 < r % 16) := by omega
    rw [if_neg low] at ht
    split at ht <;> omega
  · have low : 15 < a % 16 + v % 16 + c ∨ 9 < r % 16 := by omega
    rw [if_pos low] at ht
    split at ht <;> omega

/-- The same of the binary difference. -/
theorem decimal_difference {a v c r t : Nat} (ha1 : a / 16 ≤ 9) (ha0 : a % 16 ≤ 9) (hv1 : v / 16 ≤ 9) (hv0 : v % 16 ≤ 9)
    (hc : c ≤ 1) (hr : r = (a + 512 - v - c) % 256)
    (ht : t = (r + 256 - ((if a % 16 < v % 16 + c ∨ 9 < r % 16 then 6 else 0) +
      (if a < v + c ∨ 153 < r then 96 else 0))) % 256) :
    t = 16 * ((a / 16 * 10 + a % 16 + 200 - (v / 16 * 10 + v % 16) - c) / 10 % 10) +
      (a / 16 * 10 + a % 16 + 200 - (v / 16 * 10 + v % 16) - c) % 10 := by
  obtain lo | lo : v % 16 + c ≤ a % 16 ∨ a % 16 < v % 16 + c := by omega
  · have low : ¬(a % 16 < v % 16 + c ∨ 9 < r % 16) := by omega
    rw [if_neg low] at ht
    split at ht <;> omega
  · have low : a % 16 < v % 16 + c ∨ 9 < r % 16 := by omega
    rw [if_pos low] at ht
    split at ht <;> omega

/-- A difference of decimal numbers borrows exactly if the difference of their bytes borrows. -/
theorem decimal_borrow {a v c r : Nat} (ha1 : a / 16 ≤ 9) (ha0 : a % 16 ≤ 9) (hv0 : v % 16 ≤ 9)
    (hc : c ≤ 1) (hr : r = (a + 512 - v - c) % 256) :
    (a < v + c ∨ 153 < r) ↔ a / 16 * 10 + a % 16 < v / 16 * 10 + v % 16 + c := by
  obtain borrow | none : a < v + c ∨ v + c ≤ a := by omega
  · exact iff_of_true (.inl borrow) (by omega)
  · have small : r = a - v - c := by omega
    exact iff_of_false (by omega) (by omega)

theorem digits_le_nine {v : Byte} (h : isBcd v = true) : v.toNat / 16 ≤ 9 ∧ v.toNat % 16 ≤ 9 := by
  simp only [isBcd, Bool.and_eq_true, decide_eq_true_eq] at h
  exact h.symm

/-- A byte given by the two last decimal digits of a number. -/
theorem isBcd_and_bcdNumber_of_digits {v : Byte} {n : Nat} (h : v.toNat = 16 * (n / 10 % 10) + n % 10) :
    isBcd v = true ∧ bcdNumber v = n % 100 := by
  simp only [isBcd, bcdNumber, Bool.and_eq_true, decide_eq_true_eq]
  omega

theorem daa_of_add (a v : Byte) (c : Bool) (ha : isBcd a = true) (hv : isBcd v = true) :
    isBcd (daa (add8 a v c).1 (add8 a v c).2).1 = true ∧
      bcdNumber (daa (add8 a v c).1 (add8 a v c).2).1 = (bcdNumber a + bcdNumber v + carryIn c) % 100 ∧
      flagC (daa (add8 a v c).1 (add8 a v c).2).2 = decide (99 < bcdNumber a + bcdNumber v + carryIn c) := by
  have hc := carryIn_le_one c
  obtain ⟨ha1, ha0⟩ := digits_le_nine ha
  obtain ⟨hv1, hv0⟩ := digits_le_nine hv
  obtain ⟨hres, -, hh, -, hn, hcy⟩ := add8_result a v c
  obtain ⟨ht, -, -, -, -, carry⟩ := daa_result (add8 a v c).1 (add8 a v c).2
  simp only [hh, hn, hcy, Bool.false_eq_true, if_false, daaCorrection, Bool.or_eq_true, decide_eq_true_eq] at ht
  obtain ⟨bcd, number⟩ := isBcd_and_bcdNumber_of_digits (decimal_sum ha1 ha0 hv1 hv0 hc hres ht)
  refine ⟨bcd, number, carry.trans ?_⟩
  rw [hcy, ← Bool.decide_or, decide_eq_decide, bcdNumber, bcdNumber]
  omega

theorem daa_of_sub (a v : Byte) (c : Bool) (ha : isBcd a = true) (hv : isBcd v = true) :
    isBcd (daa (sub8 a v c).1 (sub8 a v c).2).1 = true ∧
      bcdNumber (daa (sub8 a v c).1 (sub8 a v c).2).1 = (bcdNumber a + 200 - bcdNumber v - carryIn c) % 100 ∧
      flagC (daa (sub8 a v c).1 (sub8 a v c).2).2 = decide (bcdNumber a < bcdNumber v + carryIn c) := by
  have hc := carryIn_le_one c
  obtain ⟨ha1, ha0⟩ := digits_le_nine ha
  obtain ⟨hv1, hv0⟩ := digits_le_nine hv
  obtain ⟨hres, -, hh, -, hn, hcy⟩ := sub8_result a v c
  obtain ⟨ht, -, -, -, -, borrow⟩ := daa_result (sub8 a v c).1 (sub8 a v c).2
  simp only [hh, hn, hcy, if_true, daaCorrection, Bool.or_eq_true, decide_eq_true_eq] at ht
  obtain ⟨bcd, number⟩ := isBcd_and_bcdNumber_of_digits (decimal_difference ha1 ha0 hv1 hv0 hc hres ht)
  refine ⟨bcd, number, borrow.trans ?_⟩
  rw [hcy, ← Bool.decide_or, decide_eq_decide]
  exact decimal_borrow ha1 ha0 hv0 hc hres

/-- Settles O44: the flags of a sum or a difference tell DAA which decimal digits carried or borrowed, and its
correction then gives the decimal digits of the result. -/
theorem decimalAdjustGivesDecimalArithmetic : Obligations.DecimalAdjustGivesDecimalArithmetic := fun a v c ha hv =>
  ⟨daa_of_add a v c ha hv, daa_of_sub a v c ha hv⟩

end Sys2Proof.Machine

namespace Sys2Proof.Machine

/-! ### The register port -/

theorem wide_eq (v : Byte) : wide v = BitVec.ofNat 16 v.toNat := by
  simp [wide]

theorem wordOf_eq (hi lo : Byte) : wordOf hi lo = BitVec.ofNat 16 (hi.toNat * 256 + lo.toNat) :=
  BitVec.eq_of_toNat_eq (by have := (wordOf hi lo).isLt; rw [wordOf_toNat] at *; simp; omega)

theorem hiByte_toNat (v : Word) : (hiByte v).toNat = v.toNat / 256 := by
  have := v.isLt
  simp [hiByte, Nat.shiftRight_eq_div_pow]
  omega

theorem loByte_toNat (v : Word) : (loByte v).toNat = v.toNat % 256 := by
  simp [loByte]

theorem State.rValue_toNat (s : State) : s.rValue.toNat = s.rB7.toNat * 128 + s.rCount.toNat := by
  rw [State.rValue, BitVec.toNat_append, ← Nat.shiftLeft_add_eq_or_of_lt s.rCount.isLt, Nat.shiftLeft_eq]

@[simp] theorem State.rValue_setR (s : State) (v : Byte) : (s.setR v).rValue = v := by
  apply BitVec.eq_of_toNat_eq
  rw [State.rValue_toNat]
  simp [Nat.shiftRight_eq_div_pow]
  omega

theorem IMode.ofWord_of_three_le {v : Word} (h : 3 ≤ v.toNat) : IMode.ofWord v = none := by
  rw [IMode.ofWord, if_neg (by bv_omega), if_neg (by bv_omega), if_neg (by bv_omega)]

theorem IMode.ofWord_of_lt_three {v : Word} (h : v.toNat < 3) : ∃ m, IMode.ofWord v = some m ∧ m.toWord = v := by
  obtain rfl | rfl | rfl : v = 0 ∨ v = 1 ∨ v = 2 := by bv_omega
  · exact ⟨.im0, rfl, rfl⟩
  · exact ⟨.im1, rfl, rfl⟩
  · exact ⟨.im2, rfl, rfl⟩

theorem bitWord_ne_zero (v : Word) : bitWord (v != 0) = if v.toNat = 0 then 0 else 1 := by
  simp [bitWord, BitVec.toNat_eq]

theorem wide_loByte (v : Word) : wide (loByte v) = BitVec.ofNat 16 (v.toNat % 256) := by rw [wide_eq, loByte_toNat]

theorem getRegister_setRegister_same {reg : PortReg} {v : Word} {s t : State} (e : setRegister reg v s = some t) :
    getRegister reg t = some (portValue reg v) := by
  cases reg with
  | im =>
    obtain ⟨m, hm, rfl⟩ := Option.map_eq_some_iff.mp e
    by_cases h : v.toNat < 3
    · obtain ⟨m', hm', hv⟩ := IMode.ofWord_of_lt_three h
      cases hm.symm.trans hm'
      exact congrArg some hv
    · cases hm.symm.trans (IMode.ofWord_of_three_le (Nat.le_of_not_lt h))
  | iff1 | iff2 | halt =>
    cases e
    exact congrArg some (bitWord_ne_zero v)
  | _ => cases e <;> simp [getRegister, portValue, ← wide_loByte, State.setHalf, State.setXy]

/-- An accepted write leaves every register that shares no byte with the one written. -/
theorem getRegister_setRegister_of_disjoint {reg other : PortReg} {v : Word} {s t : State}
    (e : setRegister reg v s = some t) (h : ∀ x, x ∈ other.parts → x ∉ reg.parts) :
    getRegister other t = getRegister other s := by
  cases reg with
  | im =>
    obtain ⟨m, -, rfl⟩ := Option.map_eq_some_iff.mp e
    cases other <;> simp [PortReg.parts] at h <;> rfl
  | ixh | ixl | iyh | iyl =>
    cases e
    cases other <;> simp [PortReg.parts] at h <;>
      simp [getRegister, State.setHalf, State.setXy, State.xy, State.af, State.bc, State.de, State.hl, State.rValue]
  | _ => cases e <;> cases other <;> simp [PortReg.parts] at h <;> rfl

theorem exists_setRegister {reg : PortReg} {v : Word} (s : State) (w : portReadOnly reg = false)
    (hm : reg = .im → v.toNat < 3) : ∃ t, setRegister reg v s = some t := by
  cases reg with
  | im =>
    obtain ⟨m, h, -⟩ := IMode.ofWord_of_lt_three (hm rfl)
    exact ⟨{ s with im := m }, by simp [setRegister, h]⟩
  | prepc | nmiLine | nmiPending | irqLine | dc | requestDev | serviceDev => cases w
  | _ => exact ⟨_, rfl⟩

theorem setRegister_of_readOnly {reg : PortReg} (v : Word) (s : State) (h : portReadOnly reg = true) :
    setRegister reg v s = none := by
  cases reg with
  | prepc | nmiLine | nmiPending | irqLine | dc | requestDev | serviceDev => rfl
  | _ => cases h

/-- Settles O58: each register is read from its own bytes, as numbers by `wordOf_eq`, `wide_eq` and the two halves; an
accepted write is read back, and registers that share no byte with the one written are other fields or other halves. -/
theorem registerPortReadsBackWhatItWrote : Obligations.RegisterPortReadsBackWhatItWrote := by
  intro reg v s
  refine ⟨⟨rfl, rfl, rfl, rfl, rfl, rfl, rfl, rfl, rfl⟩, ?_, ?_, ?_, ?_, ?_, setRegister_of_readOnly v s, fun h => ?_,
    fun w hm => ?_⟩
  · exact ⟨congrArg some (wordOf_eq _ _), congrArg some (wordOf_eq _ _), congrArg some (wordOf_eq _ _),
      congrArg some (wordOf_eq _ _)⟩
  · simp [getRegister, wide_eq]
  · simp [getRegister, wide_eq, hiByte_toNat, loByte_toNat, State.rValue_toNat]
  · exact ⟨by cases h : s.im <;> simp [getRegister, IMode.toWord, h], rfl, rfl, rfl, rfl, rfl, rfl⟩
  · refine ⟨fun d hd => congrArg (Option.map wide) (List.getElem?_eq_none hd),
      fun d hd => by simp [getRegister, hd, wide_eq], fun h => ?_, fun d h => ?_, fun h => ?_, fun d h => ?_⟩ <;>
    simp [getRegister, h, devWord]
  · simp [setRegister, IMode.ofWord_of_three_le h]
  · obtain ⟨t, e⟩ := exists_setRegister s w hm
    exact ⟨t, e, getRegister_setRegister_same e, fun _ => getRegister_setRegister_of_disjoint e, setRegister_frame e⟩

end Sys2Proof.Machine

namespace Sys2Proof.Machine

/-! ### The decoder reads back what the encoder wrote -/

/-- The fields of an operation byte that the ED table does not name (R144, R312). -/
theorem fields_of_isEdNop {o : Byte} (h : isEdNop o = true) :
    opX o = 0 ∨ (opX o = 1 ∧ opZ o = 7 ∧ (opY o = 6 ∨ opY o = 7)) ∨
      (opX o = 2 ∧ (opY o < 4 ∨ 4 ≤ opZ o)) ∨ opX o = 3 := by
  have := o.isLt
  simp [isEdNop] at h
  simp [opX, opY, opZ, Fin.ext_iff, Fin.lt_def, Fin.le_def]
  omega

theorem decodeED_of_isEdNop {o : Byte} (h : isEdNop o = true) (lo hi : Byte) : decodeED o lo hi = .edNop o := by
  obtain hx | ⟨hx, hz, hy | hy⟩ | ⟨hx, hyz⟩ | hx := fields_of_isEdNop h
  · simp [decodeED, hx]
  · simp [decodeED, hx, decodeEDQ1, hz, hy]
  · simp [decodeED, hx, decodeEDQ1, hz, hy]
  · simp only [decodeED, hx, decodeEDQ2]
    split <;> simp_all
  · simp [decodeED, hx]

end Sys2Proof.Machine

namespace Sys2Proof.Machine

/-- R141: index mode reads an opcode that falls through as no mode does, and marks it. -/
theorem decodeWindow_of_fallsThrough {i : Instr} {rest : List Byte} {b0 b1 b2 b3 : Byte} (f : i.fallsThrough = true)
    (e : i.encodeOp ++ rest = [b0, b1, b2, b3]) (x : Index) :
    decodeWindow (some x) b0 b1 b2 b3 = .unaffected x (decodeBase b0 b1 b2 b3) := by
  cases i with
  | ldDdNn p _ | incSs p | decSs p | popQq p | pushQq p => cases p <;> cases f <;> cases e <;> rfl
  | incR r | decR r | ldRN r _ | addAR r | adcAR r | subR r | sbcAR r | andR r | xorR r | orR r | cpR r =>
    cases r <;> cases f <;> cases e <;> rfl
  | ldRR r r' =>
    obtain ⟨hr, hr'⟩ := Bool.and_eq_true_iff.mp f
    cases r <;> cases hr <;> cases r' <;> cases hr' <;> cases e <;> rfl
  | retCc cc | jpCcNn cc _ | callCcNn cc _ => cases cc <;> cases e <;> rfl
  | rst k => fin_cases k <;> cases e <;> rfl
  | _ => cases f <;> cases e <;> rfl

theorem mode_of_fallsThrough {i : Instr} (f : i.fallsThrough = true) : i.mode = none := by
  cases i <;> first | rfl | cases f

/-- Bytes that begin with the encoding of an instruction decode, in its index mode, to that instruction. -/
theorem decodeWindow_of_encodeOp {i : Instr} {rest : List Byte} {b0 b1 b2 b3 : Byte} (w : i.wf = true)
    (e : i.encodeOp ++ rest = [b0, b1, b2, b3]) : decodeWindow i.mode b0 b1 b2 b3 = i := by
  induction i with
  | ldIndNnHl nn | ldIndNnA nn | ldHlIndNn nn | ldAIndNn nn | jpNn nn | callNn nn | ldXyNn _ nn | ldIndNnXy _ nn
  | ldXyIndNn _ nn =>
    cases e
    exact congrArg _ (wordOf_hiByte_loByte nn)
  | ldDdNn p nn => cases p <;> cases e <;> exact congrArg _ (wordOf_hiByte_loByte nn)
  | ldIndNnDd nn p => cases p <;> cases e <;> exact congrArg (Instr.ldIndNnDd · _) (wordOf_hiByte_loByte nn)
  | ldDdIndNn p nn => cases p <;> cases e <;> exact congrArg _ (wordOf_hiByte_loByte nn)
  | jpCcNn cc nn | callCcNn cc nn => cases cc <;> cases e <;> exact congrArg _ (wordOf_hiByte_loByte nn)
  | addHlSs p | incSs p | decSs p | sbcHlSs p | adcHlSs p | popQq p | pushQq p | addXyPp _ p => cases p <;> cases e <;> rfl
  | incR r | decR r | ldRN r _ | ldRIndHl r | ldIndHlR r | addAR r | adcAR r | subR r | sbcAR r | andR r | xorR r | orR r
  | cpR r | rlcR r | rrcR r | rlR r | rrR r | slaR r | sraR r | sllR r | srlR r | inRC r | outCR r | ldRIndXy _ r _
  | ldIndXyR _ _ r | rlcIndXyR _ _ r | rrcIndXyR _ _ r | rlIndXyR _ _ r | rrIndXyR _ _ r | slaIndXyR _ _ r
  | sraIndXyR _ _ r | sllIndXyR _ _ r | srlIndXyR _ _ r =>
    cases r <;> cases e <;> rfl
  | ldRR r r' => cases r <;> cases r' <;> cases e <;> rfl
  | ldPP _ p p' => cases p <;> cases p' <;> cases w <;> cases e <;> rfl
  | incXyHalf _ k | decXyHalf _ k | ldXyHalfN _ k _ | addAXyHalf _ k | adcAXyHalf _ k | subXyHalf _ k | sbcAXyHalf _ k
  | andXyHalf _ k | xorXyHalf _ k | orXyHalf _ k | cpXyHalf _ k =>
    cases k <;> cases e <;> rfl
  | retCc cc => cases cc <;> cases e <;> rfl
  | rst k | bitBIndHl k | resBIndHl k | setBIndHl k | bitBIndXy _ _ k | resBIndXy _ _ k | setBIndXy _ _ k =>
    fin_cases k <;> cases e <;> rfl
  | bitBR b r | resBR b r | setBR b r | resBIndXyR _ _ b r | setBIndXyR _ _ b r =>
    fin_cases b <;> cases r <;> cases e <;> rfl
  | bitBIndXyAlias _ _ b z => fin_cases b <;> fin_cases z <;> cases w <;> cases e <;> rfl
  | negAlias y | retnAlias y | im0Alias y => fin_cases y <;> cases w <;> cases e <;> rfl
  | edNop o =>
    cases e
    exact decodeED_of_isEdNop w _ _
  | unaffected x j ih =>
    obtain ⟨f, w⟩ := Bool.and_eq_true_iff.mp w
    have base := ih w e
    rw [mode_of_fallsThrough f] at base
    exact (decodeWindow_of_fallsThrough f e x).trans (congrArg _ base)
  | _ => cases e; rfl

theorem length_encodeOp (i : Instr) : i.encodeOp.length = i.stepLength := by
  induction i with
  | unaffected x j ih => exact ih
  | _ => rfl

end Sys2Proof.Machine

namespace Sys2Proof.Machine

/-! ### Reads, whatever is recorded of them -/

/-- Two shared parts whose next reads hear the same: the same memory and the same host to come. -/
def Shared.HeardAlike (h g : Shared) : Prop := g.mem = h.mem ∧ g.host = h.host

theorem Shared.HeardAlike.hear {h g : Shared} (e : h.HeardAlike g) (a : Word) : g.hear a = h.hear a := by
  rw [Shared.hear, Shared.hear, Shared.callback, Shared.callback, e.2, Shared.peek_congr e.1]

theorem Shared.act_mem_congr {h g : Shared} (e : g.mem = h.mem) (x : HostAct) : (g.act x).mem = (h.act x).mem := by
  cases x with
  | setMemory a v => exact congrArg (·.write a.toNat v) e
  | setNmiLine | setIrqLine => rw [Shared.act_mem rfl, Shared.act_mem rfl, e]

theorem Shared.acts_mem_congr {h g : Shared} (e : g.mem = h.mem) (xs : List HostAct) :
    (xs.foldl Shared.act g).mem = (xs.foldl Shared.act h).mem := by
  induction xs generalizing h g with
  | nil => exact e
  | cons x xs ih => exact ih (Shared.act_mem_congr e x)

/-- What later reads hear depends on how many reads there were, not on their tags, addresses and answers. -/
theorem Shared.HeardAlike.read {h g : Shared} (e : h.HeardAlike g) {tag tag' : ReadTag} {a a' : Word} {v v' : Byte} :
    (h.perform (.memRead tag a v)).HeardAlike (g.perform (.memRead tag' a' v')) := by
  refine ⟨?_, by rw [Shared.perform_host, Shared.perform_host, e.2]⟩
  have same : g.callback = h.callback := by rw [Shared.callback, Shared.callback, e.2]
  simp only [Shared.perform, same]
  refine Shared.acts_mem_congr ?_ _
  exact e.1

/-! ### The fetches of an instruction -/

theorem fetchOpcodes_succ (n : Nat) (s : State) : fetchOpcodes (n + 1) s = fetchOpcode (fetchOpcodes n s) := by
  induction n generalizing s with
  | zero => rfl
  | succ n ih => exact ih (fetchOpcode s)

theorem fetchArgs_succ (n : Nat) (s : State) : fetchArgs (n + 1) s = fetchArg (fetchArgs n s) := by
  induction n generalizing s with
  | zero => rfl
  | succ n ih => exact ih (fetchArg s)

theorem State.after_concat (s : State) (evs : List BusEvent) (ev : BusEvent) :
    (s.after (evs ++ [ev])).toShared = (s.after evs).toShared.perform ev := by
  rw [State.after_append]
  rfl

theorem take_succ_fetchEvs {i : Instr} {k : Nat} (hk : k < i.encodeOp.length) (pc : Word) :
    (fetchEvs i pc).take (k + 1) =
      (fetchEvs i pc).take k ++
        [.memRead (if k < i.format.opcodeReads then .opcode else .arg) (pc + BitVec.ofNat 16 k) i.encodeOp[k]] := by
  rw [List.take_succ_eq_append_getElem (by simpa [fetchEvs] using hk)]
  simp [fetchEvs]

/-- A fetch is heard alike from states that differ in what is recorded alone. -/
theorem heardAlike_fetches {s t : State} (e : s.toShared.HeardAlike t.toShared) {i : Instr} (pc : Word) {k : Nat}
    (hk : k ≤ i.encodeOp.length) :
    (s.after ((fetchEvs i pc).take k)).toShared.HeardAlike (t.after ((fetchEvs i pc).take k)).toShared := by
  induction k with
  | zero => exact e
  | succ k ih =>
    rw [take_succ_fetchEvs hk, State.after_concat, State.after_concat]
    exact (ih (Nat.le_of_succ_le hk)).read

theorem heardAlike_fetchArgs {s t : State} (e : s.toShared.HeardAlike t.toShared) {i : Instr} (pc : Word) {k : Nat}
    (hk : k ≤ i.encodeOp.length) :
    (s.after ((fetchEvs i pc).take k)).toShared.HeardAlike (fetchArgs k t).toShared := by
  induction k with
  | zero => exact e
  | succ k ih =>
    rw [take_succ_fetchEvs hk, State.after_concat, fetchArgs_succ]
    exact (ih (Nat.le_of_succ_le hk)).read

theorem fetches_congr {s t : State} {i : Instr} (e : s.toShared.HeardAlike t.toShared) (hp : t.pc = s.pc)
    (f : s.Fetches i) : t.Fetches i := fun k hk => by
  rw [hp, (heardAlike_fetches e s.pc (Nat.le_of_lt hk)).hear]
  exact f k hk

/-- The four bytes from which a step decodes. -/
def State.window (s : State) : List Byte := (List.range 4).map fun k => (fetchArgs k s).hear (s.pc + BitVec.ofNat 16 k)

theorem nextInstr_of_window {s : State} {i : Instr} {rest : List Byte} (w : i.wf = true) (hm : i.mode = s.xyMode)
    (e : i.encodeOp ++ rest = s.window) : s.nextInstr = i := by
  have first : s.hear (s.pc + BitVec.ofNat 16 0) = s.hear s.pc := by rw [BitVec.add_zero]
  rw [State.nextInstr, ← hm, ← first]
  exact decodeWindow_of_encodeOp w e

/-- The step decodes the instruction that its fetches hear. -/
theorem nextInstr_of_fetches {s : State} {i : Instr} (w : i.wf = true) (hm : i.mode = s.xyMode) (f : s.Fetches i) :
    s.nextInstr = i := by
  have four : i.encodeOp.length ≤ 4 := (length_encodeOp i).trans_le i.stepLength_bounds.2
  have begins : i.encodeOp = s.window.take i.encodeOp.length := by
    refine List.ext_getElem (by simp [State.window, four]) fun k hk _ => ?_
    simp only [State.window, List.getElem_take, List.getElem_map, List.getElem_range]
    rw [(heardAlike_fetchArgs ⟨rfl, rfl⟩ s.pc (Nat.le_of_lt hk)).hear, f k hk]
  refine nextInstr_of_window (rest := s.window.drop i.encodeOp.length) w hm ?_
  conv_lhs => rw [begins, List.length_take_of_le (by simp [State.window, four])]
  exact List.take_append_drop ..

theorem fetchOpcodes_of_fetches {s : State} {i : Instr} (f : s.Fetches i) {k : Nat} (hk : k ≤ i.format.opcodeReads) :
    (fetchOpcodes k s).toShared = (s.after ((fetchEvs i s.pc).take k)).toShared := by
  induction k with
  | zero => rfl
  | succ k ih =>
    have here : k < i.encodeOp.length := by rw [length_encodeOp]; exact Nat.lt_add_right _ hk
    have shared := ih (Nat.le_of_succ_le hk)
    have at_pc : (fetchOpcodes k s).pc = s.pc + BitVec.ofNat 16 k := by rw [fetchOpcodes_frame]
    rw [take_succ_fetchEvs here, State.after_concat, fetchOpcodes_succ, fetchOpcode_toShared, if_pos (Nat.lt_of_succ_le hk),
      at_pc, shared, f k here]

theorem fetchArgs_of_fetches {s : State} {i : Instr} (f : s.Fetches i) {k : Nat} (hk : k ≤ i.format.argReads) :
    (fetchArgs k (fetchOpcodes i.format.opcodeReads s)).toShared =
      (s.after ((fetchEvs i s.pc).take (i.format.opcodeReads + k))).toShared := by
  induction k with
  | zero => exact fetchOpcodes_of_fetches f (Nat.le_refl _)
  | succ k ih =>
    have here : i.format.opcodeReads + k < i.encodeOp.length := by rw [length_encodeOp]; exact Nat.add_lt_add_left hk _
    have shared := ih (Nat.le_of_succ_le hk)
    have at_pc : (fetchArgs k (fetchOpcodes i.format.opcodeReads s)).pc =
        s.pc + BitVec.ofNat 16 (i.format.opcodeReads + k) := by
      rw [fetchArgs_frame, fetchOpcodes_frame, BitVec.add_assoc, BitVec.ofNat_add_ofNat]
    rw [← Nat.add_assoc, take_succ_fetchEvs here, State.after_concat, fetchArgs_succ, fetchArg_toShared,
      if_neg (Nat.not_lt_of_le (Nat.le_add_right ..)), at_pc, shared, f _ here]

/-- The fetches of an instruction are its opcode reads and then its argument reads. -/
theorem fetchBytes_of_fetches {s : State} {i : Instr} (f : s.Fetches i) :
    fetchBytes i.format s =
      { s.after (fetchEvs i s.pc) with
        pc := s.pc + BitVec.ofNat 16 i.stepLength
        rCount := s.rCount + BitVec.ofNat 7 i.format.opcodeReads } := by
  have all : (fetchEvs i s.pc).take (i.format.opcodeReads + i.format.argReads) = fetchEvs i s.pc :=
    List.take_of_length_le (by simp [fetchEvs, length_encodeOp, Instr.stepLength])
  have shared : (fetchBytes i.format s).toShared = (s.after (fetchEvs i s.pc)).toShared :=
    (fetchArgs_of_fetches f (Nat.le_refl _)).trans (by rw [all])
  rw [fetchBytes_frame, shared, State.after_eq]
  rfl

/-- Fetches write nothing. -/
theorem fetchEvs_not_memWrite (i : Instr) (pc a : Word) (v : Byte) : BusEvent.memWrite a v ∉ fetchEvs i pc := by
  simp [fetchEvs]

theorem fetches_of_plainMemory {s : State} {i : Instr} (plain : s.PlainMemory)
    (stands : ∀ k (h : k < i.encodeOp.length), s.peek (s.pc + BitVec.ofNat 16 k) = i.encodeOp[k]) : s.Fetches i :=
  fun k hk => by
    have kept : (s.after ((fetchEvs i s.pc).take k)).mem = s.mem :=
      after_mem plain.1 fun a v h => fetchEvs_not_memWrite i s.pc a v (List.mem_of_mem_take h)
    rw [hear_of_plain (after_plain plain _), Shared.peek_congr kept, stands k hk]

/-- Settles O5: the step decodes what its fetches hear (the decoder reads back what the encoder wrote), and its fetches
are the reads of those bytes; where the host changes no memory and answers from it, they hear the bytes at PC. -/
theorem stepRunsTheInstructionAtPc : Obligations.StepRunsTheInstructionAtPc := by
  intro s i w hm running quiet
  refine ⟨fun f => ?_, fetches_of_plainMemory⟩
  have begun : s.beginStep.endDefer.Fetches i := fetches_congr (s := s) ⟨rfl, rfl⟩ rfl f
  have started : s.beginStep.endDefer.startInstr.Fetches i := fetches_congr (s := s) ⟨rfl, rfl⟩ rfl f
  rw [step_of_running running quiet, fetchInstr, nextInstr_of_fetches (s := s.beginStep.endDefer) w hm begun,
    fetchBytes_of_fetches started, State.after_eq, State.after_eq]
  rfl

end Sys2Proof.Machine

namespace Sys2Proof.Machine

/-! ### The operations of a meaning -/

theorem MayPerform.cases {i : Instr} {ev : BusEvent} (may : MayPerform i ev) :
    (∃ a v, ev = .memRead .data a v) ∨ (∃ a v, ev = .memWrite a v) ∨ (∃ p v, ev = .portRead p v) ∨
      (∃ p v, ev = .portWrite p v) ∨ ∃ d, ev = .deviceReti d := by
  cases ev with
  | memRead tag a v =>
    have data : tag = .data := may
    exact .inl ⟨a, v, data ▸ rfl⟩
  | memWrite a v => exact .inr (.inl ⟨a, v, rfl⟩)
  | portRead p v => exact .inr (.inr (.inl ⟨p, v, rfl⟩))
  | portWrite p v => exact .inr (.inr (.inr (.inl ⟨p, v, rfl⟩)))
  | deviceReti d => exact .inr (.inr (.inr (.inr ⟨d, rfl⟩)))
  | irqAck _ _ | deviceEntry _ _ | deviceReset _ => exact may.elim

/-- Settles O24: a meaning is a program over the host, and a program leaves what is shared as its operations do. -/
theorem meaningsOnlyAddDataOperations : Obligations.MeaningsOnlyAddDataOperations := fun _ s _ e =>
  have ⟨evs, may, h⟩ := exec_performs e
  ⟨evs, (congrArg Shared.bus h).trans (s.after_bus evs), h, fun ev hev => (may ev hev).cases⟩

/-! ### Calls -/

theorem completes_callTo {i : Instr} {s : State} {target : Word} {cost : Nat} (e : exec i s = .next (callTo target cost s)) :
    Completes i s cost (s.pushEvs s.pc) fun u t => t.pc = target ∧ Pushed s.pc s u { t with pc := s.pc } :=
  completes_of_after e rfl rfl ⟨rfl, pushed_push16 s.pc cost s⟩

/-- A transfer whose condition fails costs its T-states and does nothing else. -/
theorem completes_charge {i : Instr} {s : State} {cost : Nat} (e : exec i s = .next (s.charge cost)) :
    Completes i s cost [] KeepsAll :=
  completes_of_after e rfl rfl rfl

/-- The restart addresses are below 65536. -/
theorem restartAddress_toNat (k : Fin 8) : (BitVec.ofNat 16 (8 * k.val)).toNat = 8 * k.val := by
  rw [BitVec.toNat_ofNat]
  omega

/-- Settles O54: a call taken is `callTo`, a push and a jump; one not taken only costs its T-states. -/
theorem callsAndRestarts : Obligations.CallsAndRestarts := fun s =>
  ⟨fun _ => completes_callTo rfl,
    fun _ _ taken => completes_callTo (congrArg Host.Outcome.next (if_pos taken)),
    fun _ _ failed => completes_charge (congrArg Host.Outcome.next (if_neg (Bool.eq_false_iff.mp failed))),
    fun k => completes_of_after rfl rfl rfl ⟨restartAddress_toNat k, pushed_push16 s.pc 11 s⟩⟩

/-! ### Returns -/

theorem completes_returnTo {i : Instr} {s : State} {cost : Nat} (e : exec i s = .next (returnTo cost s)) :
    Completes i s cost (s.reads16 s.sp) fun u t =>
      t = { u with pc := s.hear16 s.sp, sp := s.sp + 2, cost := t.cost } :=
  completes_of_after e rfl rfl rfl

theorem completes_returnFromHandler {i : Instr} {s : State} (e : exec i s = .next ((returnFromHandler s).charge 14)) :
    Completes i s 14 (s.reads16 s.sp) fun u t =>
      t = { u with pc := s.hear16 s.sp, sp := s.sp + 2, iff1 := s.iff2, cost := t.cost } :=
  completes_of_after e rfl rfl rfl

theorem notifyReti_of_service {s : State} {d : Nat} (chain : s.nDev ≠ 0) (service : s.serviceDev = some d) :
    notifyReti s = s.perform (.deviceReti d) := by
  simp only [notifyReti, chain, service, if_false, deviceReti]

theorem notifyReti_of_quiet {s : State} (quiet : s.nDev = 0 ∨ s.serviceDev = none) : notifyReti s = s := by
  obtain h | h := quiet <;> simp only [notifyReti, h, if_true, ite_self]

/-- R436: RETI, by what `notifyReti` makes of the state after the return. -/
theorem exec_reti {s t : State} (e : notifyReti (returnFromHandler s) = t) : exec .reti s = .next (t.charge 14) :=
  congrArg (fun u : State => Host.Outcome.next (u.charge 14)) e

/-- Settles O55: a return is the two reads of its pop, and RETI then tells the device the controller names after them. -/
theorem returns : Obligations.Returns := by
  intro s
  have nDev : (returnFromHandler s).nDev = s.nDev := s.after_nDev (s.reads16 s.sp)
  refine ⟨completes_returnTo rfl, fun _ taken => completes_returnTo ?_, fun _ failed => completes_charge ?_,
    completes_returnFromHandler rfl, fun _ => completes_returnFromHandler rfl, fun d chain service => ?_,
    fun quiet => completes_returnFromHandler (exec_reti ?_), fun k => ?_⟩
  · exact congrArg Host.Outcome.next (if_pos taken)
  · exact congrArg Host.Outcome.next (if_neg (Bool.eq_false_iff.mp failed))
  · have told : notifyReti (returnFromHandler s) = (returnFromHandler s).perform (.deviceReti d) :=
      notifyReti_of_service (nDev ▸ chain) service
    exact completes_of_after (exec_reti told) rfl rfl rfl
  · exact notifyReti_of_quiet (quiet.imp_left nDev.trans)
  · rw [after_of_keepsLines k]

/-! ### Single inputs and outputs -/

theorem and_maskC (f : Byte) : f &&& maskC = when maskC (flagC f) := by
  revert f
  decide

/-- R451: F after a byte is read from a port, by arithmetic. -/
theorem readFlags_inFlags (f v : Byte) : ReadFlags f v (inFlags f v) := by
  obtain ⟨hr, hh, hp, hn, hc⟩ := flags_of_sz v 0 false (parityEven v) (flagC f) (inFlags f v) (by
    have zero : (0 : Byte) &&& maskH = 0#8 := rfl
    rw [zero, when_false, BitVec.or_zero, BitVec.or_zero, ← and_maskC, BitVec.or_comm]
    rfl)
  exact ⟨hr, hh.trans BitVec.getLsbD_zero, hp.trans (parityEven_eq_evenOnes v), hn, hc⟩

theorem setR8_setF_keepsExcept (s : State) (r : Reg8) (v f : Byte) (cost : Nat) :
    KeepsExceptR8F r s (((s.setR8 r v).setF f).charge cost) :=
  ⟨by cases r <;> rfl, fun q h => (by cases q <;> rfl : _ = (s.setR8 r v).r8 q).trans (s.r8_setR8_other v h)⟩

/-- Settles O56: an input is one port read, whose byte gives F by `inFlags`, and an output one port write. -/
theorem singleInputsAndOutputs : Obligations.SingleInputsAndOutputs := by
  intro s
  refine ⟨fun n => completes_of_after rfl rfl rfl rfl, fun r => ?_, ?_, fun n => completes_of_after rfl rfl rfl rfl,
    fun r => completes_of_after rfl rfl rfl rfl, completes_of_after rfl rfl rfl rfl⟩
  · refine completes_of_after rfl rfl ((portRead s.bc s).2.setR8_toShared r _)
      ⟨?_, readFlags_inFlags s.f _, setR8_setF_keepsExcept (portRead s.bc s).2 r _ _ 12⟩
    rw [State.r8_charge, State.r8_setF, State.r8_setR8_same]
  · exact completes_of_after rfl rfl rfl ⟨readFlags_inFlags s.f _, rfl⟩

end Sys2Proof.Machine

namespace Sys2Proof

/-! ### The fields of an opcode byte and their codes -/

/-- R132: a byte is its three fields. -/
theorem exists_opOf (o : Byte) : ∃ x y z, o = opOf x y z := by
  refine ⟨opX o, opY o, opZ o, BitVec.eq_of_toNat_eq ?_⟩
  have := o.isLt
  simp only [opOf, opX, opY, opZ, BitVec.toNat_ofNat]
  omega

theorem toNat_opOf (x : Fin 4) (y z : Fin 8) : (opOf x y z).toNat = x.val * 64 + y.val * 8 + z.val := by
  rw [opOf, BitVec.toNat_ofNat]
  omega

@[simp] theorem opX_opOf (x : Fin 4) (y z : Fin 8) : opX (opOf x y z) = x := by
  apply Fin.ext
  simp only [opX, toNat_opOf]
  omega

@[simp] theorem opY_opOf (x : Fin 4) (y z : Fin 8) : opY (opOf x y z) = y := by
  apply Fin.ext
  simp only [opY, toNat_opOf]
  omega

@[simp] theorem opZ_opOf (x : Fin 4) (y z : Fin 8) : opZ (opOf x y z) = z := by
  apply Fin.ext
  simp only [opZ, toNat_opOf]
  omega

@[simp] theorem Reg8.ofCode_code (r : Reg8) : Reg8.ofCode r.code = some r := by cases r <;> rfl

/-- R133: every code but 6 is that of a register. -/
theorem Reg8.exists_code (c : Fin 8) : (∃ r : Reg8, c = r.code) ∨ c = 6 := by
  match c with
  | 0 => exact .inl ⟨.b, rfl⟩
  | 1 => exact .inl ⟨.c, rfl⟩
  | 2 => exact .inl ⟨.d, rfl⟩
  | 3 => exact .inl ⟨.e, rfl⟩
  | 4 => exact .inl ⟨.h, rfl⟩
  | 5 => exact .inl ⟨.l, rfl⟩
  | 6 => exact .inr rfl
  | 7 => exact .inl ⟨.a, rfl⟩

/-! ### The entries of the tables

An entry is evaluated, with its operands left open; a 16-bit operand is put together from its two bytes by the decoder
and taken apart again by the encoder. -/

/-- What O2 says of a decoded instruction: it is well formed, belongs to the mode, and its encoding is the first bytes
of the list, as many as its format reads. -/
def Instr.ReadFrom (i : Instr) (m : Option Index) (bs : List Byte) : Prop :=
  i.wf = true ∧ i.mode = m ∧ i.encodeOp = bs.take i.stepLength

theorem operandBytes_wordOf (o b1 b2 : Byte) : [o, loByte (wordOf b2 b1), hiByte (wordOf b2 b1)] = [o, b1, b2] := by
  rw [loByte_wordOf, hiByte_wordOf]

theorem decodeQ0_readFrom (y z : Fin 8) (b1 b2 b3 : Byte) :
    (decodeQ0 y z b1 b2).ReadFrom none [opOf 0 y z, b1, b2, b3] := by
  match z with
  | 0 | 3 | 4 | 5 | 6 | 7 => fin_cases y <;> exact ⟨rfl, rfl, rfl⟩
  | 1 =>
    match y with
    | 0 | 2 | 4 | 6 => exact ⟨rfl, rfl, operandBytes_wordOf ..⟩
    | 1 | 3 | 5 | 7 => exact ⟨rfl, rfl, rfl⟩
  | 2 =>
    match y with
    | 0 | 1 | 2 | 3 => exact ⟨rfl, rfl, rfl⟩
    | 4 | 5 | 6 | 7 => exact ⟨rfl, rfl, operandBytes_wordOf ..⟩

theorem decodeQ1_readFrom (y z : Fin 8) (b1 b2 b3 : Byte) : (decodeQ1 y z).ReadFrom none [opOf 1 y z, b1, b2, b3] := by
  fin_cases y <;> fin_cases z <;> exact ⟨rfl, rfl, rfl⟩

theorem decodeQ2_readFrom (y z : Fin 8) (b1 b2 b3 : Byte) : (decodeQ2 y z).ReadFrom none [opOf 2 y z, b1, b2, b3] := by
  fin_cases y <;> fin_cases z <;> exact ⟨rfl, rfl, rfl⟩

theorem decodeCB_readFrom (o b2 b3 : Byte) : (decodeCB o).ReadFrom none [cbByte, o, b2, b3] := by
  obtain ⟨x, y, z, rfl⟩ := exists_opOf o
  rw [decodeCB, opX_opOf, opY_opOf, opZ_opOf]
  obtain ⟨r, rfl⟩ | rfl := Reg8.exists_code z
  · rw [Reg8.ofCode_code]
    match x with
    | 0 => fin_cases y <;> exact ⟨rfl, rfl, rfl⟩
    | 1 | 2 | 3 => exact ⟨rfl, rfl, rfl⟩
  · match x with
    | 0 => fin_cases y <;> exact ⟨rfl, rfl, rfl⟩
    | 1 | 2 | 3 => exact ⟨rfl, rfl, rfl⟩

theorem decodeXYCB_readFrom (x : Index) (d o b3 : Byte) : (decodeXYCB x d o).ReadFrom (some x) [cbByte, d, o, b3] := by
  obtain ⟨q, y, z, rfl⟩ := exists_opOf o
  rw [decodeXYCB, opX_opOf, opY_opOf, opZ_opOf]
  obtain ⟨r, rfl⟩ | rfl := Reg8.exists_code z
  · rw [Reg8.ofCode_code]
    match q with
    | 0 => fin_cases y <;> exact ⟨rfl, rfl, rfl⟩
    | 1 => cases r <;> exact ⟨rfl, rfl, rfl⟩
    | 2 | 3 => exact ⟨rfl, rfl, rfl⟩
  · match q with
    | 0 => fin_cases y <;> exact ⟨rfl, rfl, rfl⟩
    | 1 | 2 | 3 => exact ⟨rfl, rfl, rfl⟩

theorem decodeED_readFrom (o lo hi : Byte) : (decodeED o lo hi).ReadFrom none [edByte, o, lo, hi] := by
  obtain ⟨x, y, z, rfl⟩ := exists_opOf o
  match x with
  | 0 | 2 | 3 => fin_cases y <;> fin_cases z <;> exact ⟨rfl, rfl, rfl⟩
  | 1 =>
    match z with
    | 0 | 1 | 2 | 4 | 5 | 6 | 7 => fin_cases y <;> exact ⟨rfl, rfl, rfl⟩
    | 3 => fin_cases y <;> exact ⟨rfl, rfl, congrArg (List.cons edByte) (operandBytes_wordOf ..)⟩

/-- No row of the ED table has an operand that index mode replaces (R141). -/
theorem decodeED_fallsThrough (o lo hi : Byte) : (decodeED o lo hi).fallsThrough = true := by
  obtain ⟨x, y, z, rfl⟩ := exists_opOf o
  fin_cases x <;> fin_cases y <;> fin_cases z <;> rfl

theorem decodeQ3_readFrom (y z : Fin 8) (b1 b2 b3 : Byte) :
    (decodeQ3 y z b1 b2 b3).ReadFrom none [opOf 3 y z, b1, b2, b3] := by
  match z with
  | 0 | 1 | 6 | 7 => fin_cases y <;> exact ⟨rfl, rfl, rfl⟩
  | 2 | 4 => fin_cases y <;> exact ⟨rfl, rfl, operandBytes_wordOf ..⟩
  | 3 =>
    match y with
    | 0 => exact ⟨rfl, rfl, operandBytes_wordOf ..⟩
    | 1 => exact decodeCB_readFrom b1 b2 b3
    | 2 | 3 | 4 | 5 | 6 | 7 => exact ⟨rfl, rfl, rfl⟩
  | 5 =>
    match y with
    | 1 => exact ⟨rfl, rfl, operandBytes_wordOf ..⟩
    | 5 => exact decodeED_readFrom b1 b2 b3
    | 0 | 2 | 3 | 4 | 6 | 7 => exact ⟨rfl, rfl, rfl⟩

theorem decodeBase_readFrom (b0 b1 b2 b3 : Byte) : (decodeBase b0 b1 b2 b3).ReadFrom none [b0, b1, b2, b3] := by
  obtain ⟨x, y, z, rfl⟩ := exists_opOf b0
  rw [decodeBase, opX_opOf, opY_opOf, opZ_opOf]
  match x with
  | 0 => exact decodeQ0_readFrom y z b1 b2 b3
  | 1 => exact decodeQ1_readFrom y z b1 b2 b3
  | 2 => exact decodeQ2_readFrom y z b1 b2 b3
  | 3 => exact decodeQ3_readFrom y z b1 b2 b3

/-! ### Index mode -/

/-- R141: a base instruction that falls through is read alike in index mode. -/
theorem Instr.ReadFrom.unaffected {i : Instr} {bs : List Byte} (h : i.ReadFrom none bs) (f : i.fallsThrough = true)
    (x : Index) : (Instr.unaffected x i).ReadFrom (some x) bs := by
  obtain ⟨w, -, e⟩ := h
  exact ⟨Bool.and_eq_true_iff.mpr ⟨f, w⟩, rfl, e⟩

theorem decodeXYQ0_readFrom (x : Index) (y z : Fin 8) (b1 b2 b3 : Byte) :
    ((decodeXYQ0 x y z b1 b2).getD (.unaffected x (decodeQ0 y z b1 b2))).ReadFrom (some x)
      [opOf 0 y z, b1, b2, b3] := by
  match z with
  | 0 | 3 | 4 | 5 | 6 | 7 => fin_cases y <;> exact ⟨rfl, rfl, rfl⟩
  | 1 =>
    match y with
    | 0 | 2 | 4 | 6 => exact ⟨rfl, rfl, operandBytes_wordOf ..⟩
    | 1 | 3 | 5 | 7 => exact ⟨rfl, rfl, rfl⟩
  | 2 =>
    match y with
    | 0 | 1 | 2 | 3 => exact ⟨rfl, rfl, rfl⟩
    | 4 | 5 | 6 | 7 => exact ⟨rfl, rfl, operandBytes_wordOf ..⟩

theorem decodeXYQ1_readFrom (x : Index) (y z : Fin 8) (b1 b2 b3 : Byte) :
    ((decodeXYQ1 x y z b1).getD (.unaffected x (decodeQ1 y z))).ReadFrom (some x) [opOf 1 y z, b1, b2, b3] := by
  fin_cases y <;> fin_cases z <;> exact ⟨rfl, rfl, rfl⟩

theorem decodeXYQ2_readFrom (x : Index) (y z : Fin 8) (b1 b2 b3 : Byte) :
    ((decodeXYQ2 x y z b1).getD (.unaffected x (decodeQ2 y z))).ReadFrom (some x) [opOf 2 y z, b1, b2, b3] := by
  fin_cases y <;> fin_cases z <;> exact ⟨rfl, rfl, rfl⟩

theorem decodeXYQ3_readFrom (x : Index) (y z : Fin 8) (b1 b2 b3 : Byte) (cb : opOf 3 y z ≠ cbByte) :
    ((decodeXYQ3 x y z).getD (.unaffected x (decodeQ3 y z b1 b2 b3))).ReadFrom (some x) [opOf 3 y z, b1, b2, b3] := by
  match z with
  | 0 | 1 | 6 | 7 => fin_cases y <;> exact ⟨rfl, rfl, rfl⟩
  | 2 | 4 => fin_cases y <;> exact ⟨rfl, rfl, operandBytes_wordOf ..⟩
  | 3 =>
    match y with
    | 0 => exact ⟨rfl, rfl, operandBytes_wordOf ..⟩
    | 1 => exact absurd rfl cb
    | 2 | 3 | 4 | 5 | 6 | 7 => exact ⟨rfl, rfl, rfl⟩
  | 5 =>
    match y with
    | 1 => exact ⟨rfl, rfl, operandBytes_wordOf ..⟩
    | 5 => exact (decodeED_readFrom b1 b2 b3).unaffected (decodeED_fallsThrough b1 b2 b3) x
    | 0 | 2 | 3 | 4 | 6 | 7 => exact ⟨rfl, rfl, rfl⟩

theorem decodeXY_readFrom (x : Index) (b0 b1 b2 b3 : Byte) (cb : b0 ≠ cbByte) :
    ((decodeXY x b0 b1 b2).getD (.unaffected x (decodeBase b0 b1 b2 b3))).ReadFrom (some x) [b0, b1, b2, b3] := by
  obtain ⟨q, y, z, rfl⟩ := exists_opOf b0
  rw [decodeXY, decodeBase, opX_opOf, opY_opOf, opZ_opOf]
  match q with
  | 0 => exact decodeXYQ0_readFrom x y z b1 b2 b3
  | 1 => exact decodeXYQ1_readFrom x y z b1 b2 b3
  | 2 => exact decodeXYQ2_readFrom x y z b1 b2 b3
  | 3 => exact decodeXYQ3_readFrom x y z b1 b2 b3 cb

theorem decodeWindow_some (x : Index) (b0 b1 b2 b3 : Byte) :
    decodeWindow (some x) b0 b1 b2 b3 =
      if b0 = cbByte then decodeXYCB x b1 b2
      else (decodeXY x b0 b1 b2).getD (.unaffected x (decodeBase b0 b1 b2 b3)) := by
  rw [decodeWindow]
  cases decodeXY x b0 b1 b2 <;> rfl

theorem decodeWindow_readFrom (m : Option Index) (b0 b1 b2 b3 : Byte) :
    (decodeWindow m b0 b1 b2 b3).ReadFrom m [b0, b1, b2, b3] := by
  cases m with
  | none => exact decodeBase_readFrom b0 b1 b2 b3
  | some x =>
    rw [decodeWindow_some]
    split
    · next cb => exact cb ▸ decodeXYCB_readFrom x b1 b2 b3
    · next cb => exact decodeXY_readFrom x b0 b1 b2 b3 cb

/-- Settles O2: every entry of each table encodes to the bytes that lead to it, and the entries that the XY table leaves
out are base instructions that fall through. -/
theorem everyByteSequenceIsAnInstruction : Obligations.EveryByteSequenceIsAnInstruction :=
  decodeWindow_readFrom

/-! ### The decoder on lists of bytes -/

/-- The four bytes that `decode` looks at are the first of the list, as far as it goes. -/
theorem take_window (bs : List Byte) {n : Nat} (four : n ≤ 4) (enough : n ≤ bs.length) :
    [bs.getD 0 0, bs.getD 1 0, bs.getD 2 0, bs.getD 3 0].take n = bs.take n := by
  refine List.ext_getElem (by rw [List.length_take_of_le four, List.length_take_of_le enough]) fun k hk _ => ?_
  have below : k < 4 := hk.trans_le ((List.length_take_le _ _).trans four)
  simp only [List.getElem_take]
  match k, below with
  | 0, _ | 1, _ | 2, _ | 3, _ => exact List.getD_eq_getElem ..

end Sys2Proof

namespace Sys2Proof.Machine

/-! ### The decoder and the encoder on lists of bytes -/

theorem decode_encodeOp {i : Instr} (rest : List Byte) (w : i.wf = true) :
    decode i.mode (i.encodeOp ++ rest) = .ok (i, rest) := by
  have len := length_encodeOp i
  have enough : i.stepLength ≤ (i.encodeOp ++ rest).length := by simp [len]
  have begins := (take_window _ i.stepLength_bounds.2 enough).trans (List.take_left' len)
  have window := decodeWindow_of_encodeOp w ((congrArg (· ++ _) begins).symm.trans (List.take_append_drop ..))
  simp only [decode, window, if_pos enough]
  rw [List.drop_left' len]

/-- The converse: what is decoded is the encoding of the instruction, and what is left over. -/
theorem decode_eq_ok {m : Option Index} {bs rest : List Byte} {i : Instr} (h : decode m bs = .ok (i, rest)) :
    i.wf = true ∧ i.mode = m ∧ i.encodeOp ++ rest = bs := by
  simp only [decode] at h
  split at h
  · next enough =>
    cases h
    obtain ⟨w, mode, e⟩ := decodeWindow_readFrom m (bs.getD 0 0) (bs.getD 1 0) (bs.getD 2 0) (bs.getD 3 0)
    rw [take_window bs (Instr.stepLength_bounds _).2 enough] at e
    exact ⟨w, mode, e ▸ List.take_append_drop ..⟩
  · cases h

theorem decodeWindow_prefixByte (x : Index) :
    ∃ i, i.stepLength = 1 ∧ ∀ b1 b2 b3, decodeWindow none x.prefixByte b1 b2 b3 = i := by
  cases x with
  | ix => exact ⟨.prefixIx, rfl, fun _ _ _ => rfl⟩
  | iy => exact ⟨.prefixIy, rfl, fun _ _ _ => rfl⟩

/-- R140: with no index mode a DD or FD byte is an instruction of its own. -/
theorem decode_prefixByte (x : Index) (bs : List Byte) : ∃ i, decode none (x.prefixByte :: bs) = .ok (i, bs) := by
  obtain ⟨i, one, window⟩ := decodeWindow_prefixByte x
  exact ⟨i, by simp [decode, window, one]⟩

theorem decodeBytes_prefixByte_cons (x : Index) (c : Byte) (bs : List Byte) :
    decodeBytes (x.prefixByte :: c :: bs) = decode (some x) (c :: bs) := by
  cases x <;> rfl

/-- Bytes that are an instruction without an index mode are decoded without one: a DD or FD byte is none of them unless
it is the last (R140). -/
theorem decodeBytes_of_decode_none {bs : List Byte} {i : Instr} (h : decode none bs = .ok (i, [])) :
    decodeBytes bs = .ok (i, []) := by
  match bs with
  | [] => cases h
  | [_] => exact h
  | b :: c :: bs =>
    have other (x : Index) : b ≠ x.prefixByte := by
      rintro rfl
      obtain ⟨j, e⟩ := decode_prefixByte x (c :: bs)
      cases h.symm.trans e
    rw [decodeBytes, if_neg (other .ix), if_neg (other .iy), h]

theorem encode_of_mode_none {i : Instr} (m : i.mode = none) : encode i = i.encodeOp := by rw [encode, m]

theorem encode_of_mode_some {i : Instr} {x : Index} (m : i.mode = some x) : encode i = x.prefixByte :: i.encodeOp := by
  rw [encode, m]

theorem decodeBytes_encode {i : Instr} (w : i.wf = true) : decodeBytes (encode i) = .ok (i, []) := by
  have own := decode_encodeOp [] w
  rw [List.append_nil] at own
  cases m : i.mode with
  | none => rw [encode_of_mode_none m, decodeBytes_of_decode_none (m ▸ own)]
  | some x =>
    obtain ⟨c, bs, e⟩ := List.exists_cons_of_length_pos ((length_encodeOp i).symm ▸ i.stepLength_bounds.1)
    rw [encode_of_mode_some m, e, decodeBytes_prefixByte_cons, ← m, ← e, own]

/-- Settles O1: the bytes of a step begin a window from which the decoder reads the instruction back, and a DD or FD
byte in front of them selects their mode. -/
theorem decodeOfEncodeIsIdentity : Obligations.DecodeOfEncodeIsIdentity := fun _ rest w =>
  ⟨decode_encodeOp rest w, decodeBytes_encode w⟩

/-- Settles O3, by running the decoder. -/
theorem wordsFromTheTablesDecode : Obligations.WordsFromTheTablesDecode :=
  ⟨rfl, rfl, rfl, rfl, rfl, rfl, rfl, rfl, rfl, rfl, rfl, rfl, rfl, rfl, rfl, rfl, rfl⟩

/-- Settles O30: every meaning answers a next state, and the fallen-through form has the base instruction's meaning. -/
theorem fallThroughIsTheBaseInstruction : Obligations.FallThroughIsTheBaseInstruction := fun x i s =>
  have ⟨t, e⟩ := safe_exec i s
  ⟨t, (exec_unaffected x i s).trans e, e⟩

end Sys2Proof.Machine

namespace Sys2Proof.Machine

/-! ### A table word placed at PC -/

/-- The host answers the next `n` operations from memory and does nothing in them. -/
def Shared.IdleFor (n : Nat) (h : Shared) : Prop :=
  ∃ more, h.host = List.replicate n { answer := none, acts := [] } ++ more

theorem Shared.IdleFor.perform {n : Nat} {h : Shared} (idle : h.IdleFor (n + 1)) (ev : BusEvent) :
    (h.perform ev).IdleFor n := by
  obtain ⟨more, e⟩ := idle
  exact ⟨more, by rw [Shared.perform_host, e]; rfl⟩

theorem Shared.IdleFor.callback {n : Nat} {h : Shared} (idle : h.IdleFor (n + 1)) :
    h.callback = { answer := none, acts := [] } := by
  obtain ⟨more, e⟩ := idle
  rw [Shared.callback, e]
  rfl

theorem Shared.IdleFor.perform_memRead_mem {n : Nat} {h : Shared} (idle : h.IdleFor (n + 1)) (tag : ReadTag) (a : Word)
    (v : Byte) : (h.perform (.memRead tag a v)).mem = h.mem := by
  simp only [Shared.perform, idle.callback, List.foldl_nil]

theorem Shared.IdleFor.hear {n : Nat} {h : Shared} (idle : h.IdleFor (n + 1)) (a : Word) : h.hear a = h.peek a := by
  rw [Shared.hear, idle.callback]

/-- Between the fetches of an instruction a host idle for all of them is idle for those to come, and the memory is as it
was. -/
theorem idleFor_after_fetches {s : State} {i : Instr} (idle : s.IdleFor i.encodeOp.length) (pc : Word) {k n : Nat}
    (all : k + n = i.encodeOp.length) :
    (s.after ((fetchEvs i pc).take k)).IdleFor n ∧ (s.after ((fetchEvs i pc).take k)).mem = s.mem := by
  induction k generalizing n with
  | zero => exact ⟨(Nat.zero_add n).symm.trans all ▸ idle, rfl⟩
  | succ k ih =>
    obtain ⟨idle, mem⟩ := ih (n := n + 1) (by omega)
    rw [take_succ_fetchEvs (by omega), State.after_concat]
    exact ⟨idle.perform _, (idle.perform_memRead_mem ..).trans mem⟩

theorem fetches_of_idleFor {s : State} {i : Instr} (idle : s.IdleFor i.encodeOp.length)
    (stands : ∀ k (h : k < i.encodeOp.length), s.peek (s.pc + BitVec.ofNat 16 k) = i.encodeOp[k]) : s.Fetches i :=
  fun k hk => by
    obtain ⟨n, all⟩ := Nat.exists_eq_add_of_lt hk
    obtain ⟨idle, mem⟩ := idleFor_after_fetches idle s.pc (n := n + 1) all.symm
    rw [idle.hear, Shared.peek_congr mem, stands k hk]

theorem add_ofNat_succ (a : Word) (k : Nat) : a + BitVec.ofNat 16 (k + 1) = a + 1 + BitVec.ofNat 16 k := by
  rw [Nat.add_comm, ← BitVec.ofNat_add_ofNat, ← BitVec.add_assoc]
  rfl

theorem peek_pokes_of_ne {a b : Word} {bs : List Byte} (h : Shared)
    (n : ∀ k < bs.length, b ≠ a + BitVec.ofNat 16 k) : (h.pokes a bs).peek b = h.peek b := by
  induction bs generalizing h a with
  | nil => rfl
  | cons v vs ih =>
    have first : b ≠ a := by simpa using n 0 (Nat.succ_pos _)
    have later : ∀ k < vs.length, b ≠ a + 1 + BitVec.ofNat 16 k := fun k hk =>
      add_ofNat_succ a k ▸ n (k + 1) (Nat.succ_lt_succ hk)
    rw [Shared.pokes, ih _ later, Shared.peek_poke_other h v first]

/-- Bytes put at consecutive addresses stand there, if they are not more than the addresses. -/
theorem peek_pokes (a : Word) {bs : List Byte} (len : bs.length ≤ 65536) (h : Shared) {k : Nat} (hk : k < bs.length) :
    (h.pokes a bs).peek (a + BitVec.ofNat 16 k) = bs[k] := by
  induction bs generalizing h a k with
  | nil => cases hk
  | cons v vs ih =>
    simp only [List.length_cons] at len hk
    cases k with
    | zero =>
      have apart : ∀ k < vs.length, a + BitVec.ofNat 16 0 ≠ a + 1 + BitVec.ofNat 16 k := fun k hk => by bv_omega
      rw [Shared.pokes, peek_pokes_of_ne _ apart]
      simp
    | succ k =>
      rw [add_ofNat_succ]
      exact ih (a + 1) (Nat.le_of_succ_le len) (h.poke a v) (Nat.lt_of_succ_lt_succ hk)

theorem length_tableWindow_le (nbits w : Nat) : (tableWindow nbits w).2.length ≤ nbits / 8 + 3 := by
  have len : (tableBytes nbits w).length = nbits / 8 := by simp [tableBytes]
  unfold tableWindow
  split
  · next bs e =>
    rw [e] at len
    simp only [List.length_cons] at len
    split
    · simp only [List.length_append, List.length_cons, List.length_nil]
      omega
    · split <;> simp only [List.length_append, List.length_cons, List.length_nil] <;> omega
  · simp [len]

theorem decodeTableWord_eq_some {nbits w : Nat} {i : Instr} (h : decodeTableWord nbits w = some i) :
    ∃ rest, decode (tableWindow nbits w).1 (tableWindow nbits w).2 = .ok (i, rest) := by
  unfold decodeTableWord at h
  split at h
  · cases h
  · split at h
    · next e =>
      cases h
      exact ⟨_, e⟩
    · cases h

/-- The next fetches of the state in which a table word is placed hear the bytes of its instruction. -/
theorem fetches_withFetchWord (s : State) {nbits w : Nat} {i : Instr} {rest : List Byte} (small : nbits ≤ 32)
    (word : decodeTableWord nbits w = some i) (e : i.encodeOp ++ rest = (tableWindow nbits w).2) :
    (s.withFetchWord nbits w).Fetches i := by
  have len := length_tableWindow_le nbits w
  refine fetches_of_idleFor ⟨s.host, ?_⟩ fun k hk => ?_
  · rw [length_encodeOp, State.withFetchWord, State.placeInstr, word]
    rfl
  · have placed : k < (tableWindow nbits w).2.length := by rw [← e, List.length_append]; omega
    refine (peek_pokes s.pc (len.trans (by omega)) s.toShared placed).trans ?_
    simp only [← e, List.getElem_append_left hk]

/-- Settles O4: the placed bytes begin with the encoding of the instruction the table decoder read, so the next fetches
hear it, and the deferral keeps every interrupt out. -/
theorem placedTableWordIsRunNext : Obligations.PlacedTableWordIsRunNext := by
  intro s nbits w i small word
  obtain ⟨rest, decoded⟩ := decodeTableWord_eq_some word
  obtain ⟨wf, mode, e⟩ := decode_eq_ok decoded
  have fetches := fetches_withFetchWord s small word e
  have begun : (s.withFetchWord nbits w).beginStep.endDefer.Fetches i :=
    fetches_congr (s := s.withFetchWord nbits w) ⟨rfl, rfl⟩ rfl fetches
  refine ⟨nextInstr_of_fetches wf mode fetches, ?_⟩
  rw [step_of_running rfl (.inl rfl), fetchInstr,
    nextInstr_of_fetches (s := (s.withFetchWord nbits w).beginStep.endDefer) wf mode begun]

end Sys2Proof.Machine

namespace Sys2Proof.Machine

/-! ### Rotates and shifts -/

theorem toNat_shiftLeft_one_or (v : Byte) {b : Byte} (hb : b.toNat < 2) :
    ((v <<< 1) ||| b).toNat = 2 * v.toNat % 256 + b.toNat := by
  have shifted : (v <<< 1).toNat = (v.toNat % 128) <<< 1 := by
    rw [BitVec.toNat_shiftLeft, Nat.shiftLeft_eq, Nat.shiftLeft_eq]
    omega
  rw [BitVec.toNat_or, shifted, ← Nat.shiftLeft_add_eq_or_of_lt hb, Nat.shiftLeft_eq]
  omega

theorem toNat_shiftRight_one_or (v : Byte) {b : Byte} {k : Nat} (hb : b.toNat = 128 * k) :
    ((v >>> 1) ||| b).toNat = v.toNat / 2 + 128 * k := by
  have := v.isLt
  have low : (v >>> 1).toNat < 2 ^ 7 := by
    rw [BitVec.toNat_ushiftRight, Nat.shiftRight_eq_div_pow]
    omega
  have high : b.toNat = k <<< 7 := by rw [hb, Nat.shiftLeft_eq, Nat.mul_comm]
  rw [BitVec.or_comm, BitVec.toNat_or, high, ← Nat.shiftLeft_add_eq_or_of_lt low, Nat.shiftLeft_eq,
    BitVec.toNat_ushiftRight, Nat.shiftRight_eq_div_pow]
  omega

theorem toNat_when (m : Byte) (c : Bool) : (when m c).toNat = m.toNat * carryIn c := by
  cases c <;> simp [when, carryIn]

theorem and_signBit (v : Byte) : v &&& 0x80 = when 0x80 (v.getLsbD 7) := by
  revert v
  decide

theorem carryIn_decide_signBit (v : Byte) : carryIn (decide (128 ≤ v.toNat)) = v.toNat / 128 := by
  have := v.isLt
  simp only [carryIn, decide_eq_true_eq]
  split <;> omega

/-- R350: the moved byte and the bit moved out, as numbers. -/
theorem rotBits_result (o : RotOp) (c : Bool) (v : Byte) :
    (rotBits o c v).1.toNat = rotNumber o c v.toNat ∧ (rotBits o c v).2 = rotOut o v.toNat := by
  have bit0 : v.getLsbD 0 = decide (v.toNat % 2 = 1) := by rw [getLsbD_eq_decide, Nat.pow_zero, Nat.div_one]
  have bit7 := getLsbD_seven v
  cases o with
  | rlc =>
    have out : (v >>> 7).toNat = v.toNat / 128 := Nat.shiftRight_eq_div_pow ..
    exact ⟨(toNat_shiftLeft_one_or v (by omega)).trans (congrArg _ out), bit7⟩
  | rrc =>
    have out : (v <<< 7).toNat = 128 * (v.toNat % 2) := by
      rw [BitVec.toNat_shiftLeft, Nat.shiftLeft_eq]
      omega
    exact ⟨toNat_shiftRight_one_or v out, bit0⟩
  | rl =>
    have carry : (when 0x01 c).toNat = carryIn c := (toNat_when ..).trans (Nat.one_mul _)
    have small : (when 0x01 c).toNat < 2 := carry ▸ Nat.lt_succ_of_le (carryIn_le_one c)
    exact ⟨(toNat_shiftLeft_one_or v small).trans (congrArg _ carry), bit7⟩
  | rr => exact ⟨toNat_shiftRight_one_or v (toNat_when ..), bit0⟩
  | sla => exact ⟨(congrArg _ BitVec.or_zero).symm.trans (toNat_shiftLeft_one_or v (b := 0#8) (by decide)), bit7⟩
  | sra =>
    have out : (v &&& 0x80).toNat = 128 * (v.toNat / 128) := by
      rw [and_signBit, toNat_when, bit7, carryIn_decide_signBit]
      rfl
    exact ⟨toNat_shiftRight_one_or v out, bit0⟩
  | sll => exact ⟨toNat_shiftLeft_one_or v (by decide), bit7⟩
  | srl => exact ⟨(congrArg _ BitVec.or_zero).symm.trans (toNat_shiftRight_one_or v (b := 0#8) (k := 0) rfl), bit0⟩

theorem rot_result (o : RotOp) (f v : Byte) : RotResult o f v (rot o f v).1 (rot o f v).2 := by
  obtain ⟨number, out⟩ := rotBits_result o (flagC f) v
  obtain ⟨hr, hh, hp, hn, hc⟩ := flags_of_sz (rot o f v).1 0#8 false (parityEven (rot o f v).1)
    (rotBits o (flagC f) v).2 (rot o f v).2 (by rw [BitVec.zero_and, when_false, BitVec.or_zero, BitVec.or_zero]; rfl)
  exact ⟨number, hr, hh.trans BitVec.getLsbD_zero, hp.trans (parityEven_eq_evenOnes _), hn, hc.trans out⟩

/-! ### A byte of memory that is read and replaced -/

theorem storedByte_of_read_write {s t : State} {a : Word} {w : Byte}
    (h : t.mem = (s.after [s.readEv a, .memWrite a w]).mem) : StoredByte a w s t := by
  intro k
  have read (b : Word) : t.peek b = if a = b then w else s.peek b := (Shared.peek_congr h b).trans (peek_after k _ b)
  exact ⟨by rw [read, if_pos rfl], fun b n => by rw [read, if_neg n.symm]⟩

/-- An instruction that replaces a byte by what `g` makes of F and of it: its completion, with whatever is known of the
byte and the F that `g` gives. -/
theorem completes_modifyMem {i : Instr} {s : State} {g : Byte → Byte → Byte × Byte} {a : Word} {cost : Nat}
    (e : exec i s = .next (modifyMem g a cost s)) {post : Byte → Byte → Prop}
    (r : post (g s.f (s.hear a)).1 (g s.f (s.hear a)).2) :
    ∃ w, Completes i s cost [s.readEv a, .memWrite a w] fun u t =>
      post w t.f ∧ StoredByte a w s t ∧ KeepsExceptF u t :=
  ⟨_, completes_of_after e rfl rfl ⟨r, storedByte_of_read_write rfl, rfl⟩⟩

theorem rotateMemCopy_eq (o : RotOp) (a : Word) (r : Reg8) (s : State) :
    rotateMemCopy o a r s =
      (((s.after [s.readEv a, .memWrite a (rot o s.f (s.hear a)).1]).setR8 r (rot o s.f (s.hear a)).1).setF
        (rot o s.f (s.hear a)).2).charge 19 := rfl

theorem completes_rotateMemCopy {i : Instr} {s : State} {o : RotOp} {a : Word} {r : Reg8}
    (e : exec i s = .next (rotateMemCopy o a r s)) :
    ∃ w, Completes i s 19 [s.readEv a, .memWrite a w] fun u t =>
      RotResult o s.f (s.hear a) w t.f ∧ StoredByte a w s t ∧ t.r8 r = w ∧ KeepsExceptR8F r u t := by
  have shared := (s.after [s.readEv a, .memWrite a (rot o s.f (s.hear a)).1]).setR8_toShared r (rot o s.f (s.hear a)).1
  rw [rotateMemCopy_eq] at e
  refine ⟨_, completes_of_after e rfl shared
    ⟨rot_result o s.f _, storedByte_of_read_write (congrArg Shared.mem shared), ?_,
      setR8_setF_keepsExcept _ r _ _ 19⟩⟩
  rw [State.r8_charge, State.r8_setF, State.r8_setR8_same]

/-- Settles O49: each row dispatches to `rotateMem` or `rotateMemCopy`, a read and a write of one address, with the
byte and the flags of `rot`. -/
theorem rotatesOfMemory : Obligations.RotatesOfMemory := by
  intro s o
  have hl : exec (rotIndHl o) s = .next (rotateMem o s.hl 15 s) := by cases o <;> rfl
  have xy (x d) : exec (rotIndXy o x d) s = .next (rotateMem o (s.ea x d) 19 s) := by cases o <;> rfl
  have copy (x d r) : exec (rotIndXyR o x d r) s = .next (rotateMemCopy o (s.ea x d) r s) := by cases o <;> rfl
  exact ⟨completes_modifyMem hl (rot_result o s.f _), fun x d => completes_modifyMem (xy x d) (rot_result o s.f _),
    fun x d r => completes_rotateMemCopy (copy x d r)⟩

end Sys2Proof.Machine

namespace Sys2Proof.Machine

/-! ### Frames and costs -/

theorem KeepsExceptR8.charge {r : Reg8} {u t : State} (h : KeepsExceptR8 r u t) (cost : Nat) :
    KeepsExceptR8 r u (t.charge cost) :=
  ⟨congrArg (State.charge · cost) h.1, fun q n => (t.r8_charge cost q).trans (h.2 q n)⟩

theorem KeepsExceptHalf.charge {x : Index} {k : Half} {u t : State} (h : KeepsExceptHalf x k u t) (cost : Nat) :
    KeepsExceptHalf x k u (t.charge cost) := by
  obtain ⟨⟨frame, others⟩, otherHalf⟩ := h
  exact ⟨⟨congrArg (State.charge · cost) frame, fun y n => (t.xy_charge cost y).trans (others y n)⟩,
    fun j n => (t.half_charge cost x j).trans (otherHalf j n)⟩

theorem setIr8_charge_keepsExcept (s : State) (x : Index) (p : IReg8) (v : Byte) (cost : Nat) :
    KeepsExceptIr8 x p s ((s.setIr8 x p v).charge cost) := by
  cases p with
  | b => exact (setR8_keepsExcept s .b v).charge cost
  | c => exact (setR8_keepsExcept s .c v).charge cost
  | d => exact (setR8_keepsExcept s .d v).charge cost
  | e => exact (setR8_keepsExcept s .e v).charge cost
  | xh => exact (setHalf_keepsExcept s x .high v).charge cost
  | xl => exact (setHalf_keepsExcept s x .low v).charge cost
  | a => exact (setR8_keepsExcept s .a v).charge cost

/-! ### Loads and stores of a byte -/

/-- A register takes a byte after operations on the host, and nothing else happens. -/
theorem completes_setR8 {i : Instr} {s : State} {r : Reg8} {v : Byte} {cost : Nat} {evs : List BusEvent}
    (e : exec i s = .next (((s.after evs).setR8 r v).charge cost)) :
    Completes i s cost evs fun u t => t.r8 r = v ∧ KeepsExceptR8 r u t :=
  completes_of_after e rfl ((s.after evs).setR8_toShared r v)
    ⟨(State.r8_charge ..).trans (State.r8_setR8_same ..), (setR8_keepsExcept _ r v).charge cost⟩

/-- R112: a byte written stands at its address, and every other address reads as before. -/
theorem storedByte_of_write {s t : State} {a : Word} {v : Byte} (h : t.mem = (s.perform (.memWrite a v)).mem) :
    StoredByte a v s t := by
  intro k
  have read (b : Word) : t.peek b = if a = b then v else s.peek b := (Shared.peek_congr h b).trans (peek_perform k _ b)
  exact ⟨(read a).trans (if_pos rfl), fun b n => (read b).trans (if_neg n.symm)⟩

theorem completes_storeByte {i : Instr} {s : State} {a : Word} {v : Byte} {cost : Nat}
    (e : exec i s = .next (storeByte a v cost s)) :
    Completes i s cost [.memWrite a v] fun u t => StoredByte a v s t ∧ KeepsAll u t :=
  completes_of_after e rfl rfl ⟨storedByte_of_write rfl, rfl⟩

/-- Settles O32: each row writes one register of its state, at its cost. -/
theorem loadsBetweenRegisters : Obligations.LoadsBetweenRegisters := by
  intro s
  refine ⟨fun r r' => completes_setR8 rfl, fun r n => completes_setR8 rfl, fun x p p' => ?_, fun x k n => ?_⟩
  · exact completes_of_after rfl rfl (s.setIr8_toShared x p _)
      ⟨(State.ir8_charge ..).trans (State.ir8_setIr8_same ..), setIr8_charge_keepsExcept s x p _ 4⟩
  · exact completes_of_after rfl rfl (s.setHalf_toShared x k n)
      ⟨(State.half_charge ..).trans (State.half_setHalf_same ..), (setHalf_keepsExcept s x k n).charge 7⟩

/-- Settles O33: each row is `loadR8` at its address, one read and the register it goes to. -/
theorem loadsOfAByteFromMemory : Obligations.LoadsOfAByteFromMemory := fun _ =>
  ⟨fun _ => completes_setR8 rfl, fun _ _ _ => completes_setR8 rfl, completes_setR8 (r := .a) rfl,
    completes_setR8 (r := .a) rfl, fun _ => completes_setR8 (r := .a) rfl⟩

/-- Settles O34: each row is `storeByte` at its address, with its byte and cost. -/
theorem storesOfAByte : Obligations.StoresOfAByte := fun _ =>
  ⟨fun _ => completes_storeByte rfl, fun _ _ _ => completes_storeByte rfl, fun _ => completes_storeByte rfl,
    fun _ _ _ => completes_storeByte rfl, completes_storeByte rfl, completes_storeByte rfl,
    fun _ => completes_storeByte rfl⟩

/-! ### I and R -/

/-- R184, R185: F from the byte loaded, IFF2 and the old C. -/
theorem ldAirFlags_result (f v : Byte) (iff2 : Bool) :
    ResultFlags v (ldAirFlags f v iff2) ∧ flagH (ldAirFlags f v iff2) = false ∧ flagPV (ldAirFlags f v iff2) = iff2 ∧
      flagN (ldAirFlags f v iff2) = false ∧ flagC (ldAirFlags f v iff2) = flagC f := by
  obtain ⟨hr, hh, hp, hn, hc⟩ := flags_of_sz v 0#8 false iff2 (flagC f) (ldAirFlags f v iff2) (by
    rw [BitVec.zero_and, when_false, BitVec.or_zero, BitVec.or_zero, ← and_maskC, ldAirFlags]
    ac_rfl)
  exact ⟨hr, hh.trans BitVec.getLsbD_zero, hp, hn, hc⟩

theorem loadAir_result (v : Byte) (s : State) :
    ResultFlags v (loadAir v s).f ∧ flagH (loadAir v s).f = false ∧ flagPV (loadAir v s).f = s.iff2 ∧
      flagN (loadAir v s).f = false ∧ flagC (loadAir v s).f = flagC s.f ∧ KeepsExceptAF s (loadAir v s) := by
  obtain ⟨hr, hh, hp, hn, hc⟩ := ldAirFlags_result s.f v s.iff2
  exact ⟨hr, hh, hp, hn, hc, rfl⟩

/-- R187: the two parts of R, as numbers. -/
theorem State.setR_eq (s : State) (v : Byte) :
    s.setR v = { s with rCount := BitVec.ofNat 7 (v.toNat % 128), rB7 := BitVec.ofNat 1 (v.toNat / 128) } := by
  have count : v.extractLsb' 0 7 = BitVec.ofNat 7 (v.toNat % 128) := by
    apply BitVec.eq_of_toNat_eq
    simp
  have b7 : v.extractLsb' 7 1 = BitVec.ofNat 1 (v.toNat / 128) := by
    rw [BitVec.extractLsb', Nat.shiftRight_eq_div_pow]
  rw [State.setR, count, b7]

/-- Settles O35: a load into A is `loadAir` of I or of R, whose value is R's two parts; a load from A writes I, or the
two parts of R. -/
theorem loadsOfIAndR : Obligations.LoadsOfIAndR := fun s =>
  ⟨completes_of_after rfl rfl rfl ⟨rfl, loadAir_result s.i s⟩,
    completes_of_after rfl rfl rfl ⟨s.rValue_toNat, loadAir_result s.rValue s⟩,
    completes_of_after rfl rfl rfl rfl,
    completes_of_after rfl rfl rfl (congrArg (State.charge · 9) (s.setR_eq s.a))⟩

end Sys2Proof.Machine

namespace Sys2Proof.Machine

/-! ### Loads and stores of a word -/

theorem KeepsExceptRp.charge {p : RegP} {u t : State} (h : KeepsExceptRp p u t) (cost : Nat) :
    KeepsExceptRp p u (t.charge cost) :=
  ⟨congrArg (State.charge · cost) h.1, fun q n => (t.rp_charge cost q).trans (h.2 q n)⟩

theorem KeepsExceptXy.charge {x : Index} {u t : State} (h : KeepsExceptXy x u t) (cost : Nat) :
    KeepsExceptXy x u (t.charge cost) :=
  ⟨congrArg (State.charge · cost) h.1, fun y n => (t.xy_charge cost y).trans (h.2 y n)⟩

/-- A pair takes a word after operations on the host, and nothing else happens. -/
theorem completes_setRp {i : Instr} {s : State} {p : RegP} {v : Word} {cost : Nat} {evs : List BusEvent}
    (e : exec i s = .next (((s.after evs).setRp p v).charge cost)) :
    Completes i s cost evs fun u t => t.rp p = v ∧ KeepsExceptRp p u t :=
  completes_of_after e rfl ((s.after evs).setRp_toShared p v)
    ⟨(State.rp_charge ..).trans (State.rp_setRp_same ..), (setRp_keepsExcept _ p v).charge cost⟩

/-- An index register takes a word after operations on the host, and nothing else happens. -/
theorem completes_setXy {i : Instr} {s : State} {x : Index} {v : Word} {cost : Nat} {evs : List BusEvent}
    (e : exec i s = .next (((s.after evs).setXy x v).charge cost)) :
    Completes i s cost evs fun u t => t.xy x = v ∧ KeepsExceptXy x u t :=
  completes_of_after e rfl ((s.after evs).setXy_toShared x v)
    ⟨(State.xy_charge ..).trans (State.xy_setXy_same ..), (setXy_keepsExcept _ x v).charge cost⟩

/-- R107: the second write of a word is to another address than the first, even where the address wraps. -/
theorem storedWord_of_writes {s t : State} {a v : Word}
    (h : t.mem = (s.after [.memWrite a (loByte v), .memWrite (a + 1) (hiByte v)]).mem) : StoredWord a v s t := by
  intro k
  have read (b : Word) : t.peek b = if a + 1 = b then hiByte v else if a = b then loByte v else s.peek b :=
    (Shared.peek_congr h b).trans (peek_after k _ b)
  have apart : a + 1 ≠ a := by bv_omega
  exact ⟨by rw [read, if_neg apart, if_pos rfl], by rw [read, if_pos rfl], fun b first second => by
    rw [read, if_neg second.symm, if_neg first.symm]⟩

theorem completes_memWrite16 {i : Instr} {s : State} {a v : Word} {cost : Nat}
    (e : exec i s = .next ((memWrite16 a v s).charge cost)) :
    Completes i s cost [.memWrite a (loByte v), .memWrite (a + 1) (hiByte v)] fun u t =>
      StoredWord a v s t ∧ KeepsAll u t :=
  completes_of_after e rfl rfl ⟨storedWord_of_writes rfl, rfl⟩

/-- Settles O36: each row writes one pair or index register, with its operand, with another register or with the word
that two reads hear. -/
theorem loadsOfAWord : Obligations.LoadsOfAWord := fun _ =>
  ⟨fun _ _ => completes_setRp rfl, fun _ _ => completes_setXy rfl, completes_setRp (p := .sp) rfl,
    fun _ => completes_setRp (p := .sp) rfl, fun _ => completes_setRp (p := .hl) rfl, fun _ _ => completes_setRp rfl,
    fun _ _ => completes_setXy rfl⟩

/-- Settles O37: each row is `memWrite16` at nn, with its word and cost. -/
theorem storesOfAWord : Obligations.StoresOfAWord := fun _ =>
  ⟨fun _ => completes_memWrite16 rfl, fun _ _ => completes_memWrite16 rfl, fun _ _ => completes_memWrite16 rfl⟩

end Sys2Proof.Machine

namespace Sys2Proof.Machine

/-! ### Exchanges -/

/-- The operations of EX (SP): the word at SP read low byte first, then the pair written high byte first (R223). -/
def State.exchangeEvs (s : State) (v : Word) : List BusEvent :=
  s.reads16 s.sp ++ [.memWrite (s.sp + 1) (hiByte v), .memWrite s.sp (loByte v)]

theorem exchangeTop_eq (v : Word) (s : State) : exchangeTop v s = (s.hear16 s.sp, s.after (s.exchangeEvs v)) := rfl

/-- R223: the high byte is written first, and the low byte after it goes to another address, even where SP wraps. -/
theorem storedWord_of_exchangeEvs {s t : State} {v : Word} (h : t.mem = (s.after (s.exchangeEvs v)).mem) :
    StoredWord s.sp v s t := by
  intro k
  have read (b : Word) : t.peek b = if s.sp = b then loByte v else if s.sp + 1 = b then hiByte v else s.peek b :=
    (Shared.peek_congr h b).trans (peek_after k _ b)
  have apart : s.sp ≠ s.sp + 1 := by bv_omega
  exact ⟨by rw [read, if_pos rfl], by rw [read, if_neg apart, if_pos rfl], fun b low high => by
    rw [read, if_neg low.symm, if_neg high.symm]⟩

theorem completes_exSpHl (s : State) :
    Completes .exSpHl s 19 (s.exchangeEvs s.hl) fun u t =>
      t.hl = s.hear16 s.sp ∧ StoredWord s.sp s.hl s t ∧ t = { u with h := t.h, l := t.l, cost := t.cost } :=
  completes_of_after rfl rfl rfl ⟨wordOf_hiByte_loByte _, storedWord_of_exchangeEvs rfl, rfl⟩

theorem completes_exSpXy (s : State) (x : Index) :
    Completes (.exSpXy x) s 19 (s.exchangeEvs (s.xy x)) fun u t =>
      t.xy x = s.hear16 s.sp ∧ (∀ y, y ≠ x → t.xy y = s.xy y) ∧ StoredWord s.sp (s.xy x) s t ∧
        t = { u with ix := t.ix, iy := t.iy, cost := t.cost } := by
  obtain ⟨frame, others⟩ := setXy_keepsExcept (s.after (s.exchangeEvs (s.xy x))) x (s.hear16 s.sp) |>.charge 19
  have shared := (s.after (s.exchangeEvs (s.xy x))).setXy_toShared x (s.hear16 s.sp)
  refine completes_of_after rfl rfl shared ⟨?_, fun y n => (others y n).trans ?_, ?_, frame⟩
  · exact (State.xy_charge ..).trans (State.xy_setXy_same ..)
  · cases y <;> rfl
  · exact storedWord_of_exchangeEvs (congrArg Shared.mem shared)

/-- Settles O39: the register exchanges write each pair with the other's old word; EX (SP) writes the pair with the word
that its two reads hear, and the word at SP with the pair. -/
theorem exchanges : Obligations.Exchanges := by
  intro s
  refine ⟨completes_of_after rfl rfl rfl ⟨wordOf_hiByte_loByte _, wordOf_hiByte_loByte _, rfl⟩,
    completes_of_after rfl rfl rfl ⟨wordOf_hiByte_loByte _, rfl, rfl⟩,
    completes_of_after rfl rfl rfl
      ⟨wordOf_hiByte_loByte _, rfl, wordOf_hiByte_loByte _, rfl, wordOf_hiByte_loByte _, rfl, rfl⟩,
    ?_, completes_exSpXy s⟩
  have halves : s.exchangeEvs s.hl = s.reads16 s.sp ++ [.memWrite (s.sp + 1) s.h, .memWrite s.sp s.l] := by
    rw [State.exchangeEvs, State.hl, hiByte_wordOf, loByte_wordOf]
  exact halves ▸ completes_exSpHl s

end Sys2Proof.Machine

namespace Sys2Proof.Machine

/-! ### Iterations of the block instructions -/

/-- An instruction that is one iteration and its cost: PC stays as the fetch left it. -/
theorem completes_iteration {i : Instr} {s w : State} {evs : List BusEvent} {post : State → State → Prop} {cost : Nat}
    (e : exec i s = .next (w.charge cost)) (shared : w.toShared = (s.after evs).toShared) (pc : w.pc = s.pc)
    (hp : ∀ v n, post (s.after evs) ((w.setPc v).charge n)) :
    Completes i s cost evs fun u t => post u t ∧ Ends s t :=
  completes_of_after e rfl shared ⟨hp w.pc cost, pc⟩

/-- R226, R554: a repeating instruction is one iteration, then on at 16 T-states, or back onto its first byte at 21. -/
theorem completes_repeatIf {i : Instr} {s w : State} {evs : List BusEvent} {post : State → State → Prop}
    {again : Bool} {stop : Prop} [Decidable stop] (e : exec i s = .next (repeatIf again w))
    (ha : again = !decide stop) (shared : w.toShared = (s.after evs).toShared) (pc : w.pc = s.pc)
    (hp : ∀ v n, post (s.after evs) ((w.setPc v).charge n)) :
    Completes i s (if stop then 16 else 21) evs fun u t => post u t ∧ (if stop then Ends s t else Repeats s t) := by
  by_cases h : stop
  · rw [ha, decide_eq_true h] at e
    simp only [if_pos h]
    exact completes_iteration e shared pc hp
  · rw [ha, decide_eq_false h] at e
    simp only [if_neg h]
    exact completes_of_after e rfl shared ⟨hp _ 21, congrArg (· - 2) pc⟩

theorem toNat_sub_one (v : Word) : (v - 1).toNat = (v.toNat + 65535) % 65536 := by bv_omega

theorem sub_one_bne_zero (v : Word) : (v - 1 != 0) = !decide (v.toNat = 1) := by
  rw [bne, beq_eq_decide, Bool.not_inj_iff, decide_eq_decide]
  bv_omega

theorem bne_zero_eq_decide (v : Word) : (v != 0) = decide (v.toNat ≠ 0) := by
  rw [bne, beq_eq_decide, ← decide_not, decide_eq_decide]
  bv_omega

/-! ### Block transfers -/

/-- A byte that is written after a read, of whichever address, stands where it was written. -/
theorem storedByte_of_move {s t : State} {src dst : Word} {v : Byte}
    (h : t.mem = (s.after [s.readEv src, .memWrite dst v]).mem) : StoredByte dst v s t := by
  intro k
  have read (b : Word) : t.peek b = if dst = b then v else s.peek b := (Shared.peek_congr h b).trans (peek_after k _ b)
  exact ⟨(read dst).trans (if_pos rfl), fun b n => (read b).trans (if_neg n.symm)⟩

/-- R225: F after a transfer, by arithmetic. -/
theorem ldBlockFlags_result (f a v : Byte) (bc : Word) : BlockLoadFlags f a v bc (ldBlockFlags f a v bc) := by
  have bit1 : (a + v).getLsbD 1 = decide ((a.toNat + v.toNat) / 2 % 2 = 1) := by
    rw [getLsbD_eq_decide, BitVec.toNat_add, decide_eq_decide]
    omega
  have bit3 : (a + v).getLsbD 3 = decide ((a.toNat + v.toNat) / 8 % 2 = 1) := by
    rw [getLsbD_eq_decide, BitVec.toNat_add, decide_eq_decide]
    omega
  rw [BlockLoadFlags, ← bit1, ← bit3, ← bne_zero_eq_decide]
  simp [flagS, flagZ, flagY, flagH, flagX, flagPV, flagN, flagC, ldBlockFlags, maskPV]

theorem blockLoad_bc (dir : Word) (s : State) : (blockLoad dir s).bc = s.bc - 1 := wordOf_hiByte_loByte _

theorem blockLoad_post (dir : Word) (s : State) (pc : Word) (cost : Nat) :
    BlockLoadPost (s.hl + dir) (s.de + dir) s (s.after [s.readEv s.hl, .memWrite s.de (s.hear s.hl)])
      (((blockLoad dir s).setPc pc).charge cost) := by
  have bc : (((blockLoad dir s).setPc pc).charge cost).bc = s.bc - 1 := blockLoad_bc dir s
  exact ⟨wordOf_hiByte_loByte _, wordOf_hiByte_loByte _, bc ▸ toNat_sub_one s.bc, storedByte_of_move rfl,
    bc ▸ ldBlockFlags_result .., rfl⟩

/-- R226: another transfer is due unless BC was 1. -/
theorem blockLoad_again (dir : Word) (s : State) : ((blockLoad dir s).bc != 0) = !decide (s.bc.toNat = 1) := by
  rw [blockLoad_bc, sub_one_bne_zero]

/-- Settles O40: each row is `blockLoad`, up or down; LDIR and LDDR go on from it by `repeatIf`. -/
theorem blockTransfers : Obligations.BlockTransfers := by
  intro s
  rw [BitVec.sub_eq_add_neg s.hl, BitVec.sub_eq_add_neg s.de]
  exact ⟨completes_iteration rfl rfl rfl (blockLoad_post 1 s),
    completes_iteration rfl rfl rfl (blockLoad_post (-1) s),
    completes_repeatIf rfl (blockLoad_again 1 s) rfl rfl (blockLoad_post 1 s),
    completes_repeatIf rfl (blockLoad_again (-1) s) rfl rfl (blockLoad_post (-1) s)⟩

/-! ### Block searches -/

theorem and_maskH_ne_zero (v : Byte) : (v &&& maskH != 0) = v.getLsbD 4 := by
  revert v
  decide

/-- R229: each flag of a comparison as a bit of the difference, or of the difference less H. -/
theorem cpBlockFlags_bits (f a v : Byte) (bc : Word) :
    flagS (cpBlockFlags f a v bc) = (a - v).getLsbD 7 ∧ flagZ (cpBlockFlags f a v bc) = (a - v == 0) ∧
      flagY (cpBlockFlags f a v bc) = (a - v - when 1 (flagH (cpBlockFlags f a v bc))).getLsbD 1 ∧
      flagH (cpBlockFlags f a v bc) = (a ^^^ v ^^^ (a - v)).getLsbD 4 ∧
      flagX (cpBlockFlags f a v bc) = (a - v - when 1 (flagH (cpBlockFlags f a v bc))).getLsbD 3 ∧
      flagPV (cpBlockFlags f a v bc) = (bc != 0) ∧ flagN (cpBlockFlags f a v bc) = true ∧
      flagC (cpBlockFlags f a v bc) = flagC f := by
  have half : flagH (cpBlockFlags f a v bc) = (a ^^^ v ^^^ (a - v)).getLsbD 4 := by
    simp [flagH, cpBlockFlags, maskS, maskZ, maskH, maskPV, maskN, maskC]
  rw [half]
  simp only [cpBlockFlags, and_maskH_ne_zero]
  generalize when 1 ((a ^^^ v ^^^ (a - v)).getLsbD 4) = h
  simp [flagS, flagZ, flagY, flagX, flagPV, flagN, flagC, maskS, maskZ, maskH, maskPV, maskN, maskC]

theorem toNat_sub_sub_when (a v : Byte) (h : Bool) :
    (a - v - when 1 h).toNat = (a.toNat + 256 - v.toNat - carryIn h) % 256 := by
  have small := carryIn_le_one h
  have one : (when 1 h).toNat = carryIn h := (toNat_when 1 h).trans (Nat.one_mul _)
  rw [BitVec.toNat_sub, BitVec.toNat_sub, one]
  omega

/-- R229: F after a comparison, by arithmetic: H is the half borrow, and Y and X are of the difference less H. -/
theorem cpBlockFlags_result (f a v : Byte) (bc : Word) : BlockCompareFlags f a v bc (cpBlockFlags f a v bc) := by
  obtain ⟨hs, hz, hy, hh, hx, hp, hn, hc⟩ := cpBlockFlags_bits f a v bc
  refine ⟨hs.trans ?_, hz.trans ?_, hy.trans ?_, hh.trans ?_, hx.trans ?_, hp.trans (bne_zero_eq_decide bc), hn, hc⟩
  · rw [getLsbD_seven, decide_eq_decide]
    bv_omega
  · rw [beq_eq_decide, decide_eq_decide]
    bv_omega
  · rw [getLsbD_eq_decide, toNat_sub_sub_when, decide_eq_decide]
    omega
  · exact halfBorrow_of_difference (Nat.zero_le 1) (by bv_omega)
  · rw [getLsbD_eq_decide, toNat_sub_sub_when, decide_eq_decide]
    omega

theorem blockCompare_bc (dir : Word) (s : State) : (blockCompare dir s).bc = s.bc - 1 := wordOf_hiByte_loByte _

theorem blockCompare_post (dir : Word) (s : State) (pc : Word) (cost : Nat) :
    BlockComparePost (s.hl + dir) s (s.after [s.readEv s.hl]) (((blockCompare dir s).setPc pc).charge cost) := by
  have bc : (((blockCompare dir s).setPc pc).charge cost).bc = s.bc - 1 := blockCompare_bc dir s
  exact ⟨wordOf_hiByte_loByte _, bc ▸ toNat_sub_one s.bc, bc ▸ cpBlockFlags_result .., rfl⟩

/-- R230: another comparison is due unless BC was 1 or the byte read matched. -/
theorem blockCompare_again (dir : Word) (s : State) :
    ((blockCompare dir s).bc != 0 && !flagZ (blockCompare dir s).f) =
      !decide (s.bc.toNat = 1 ∨ s.a = s.hear s.hl) := by
  obtain ⟨-, zero, -⟩ := cpBlockFlags_result s.f s.a (s.hear s.hl) (s.bc - 1)
  have found : flagZ (blockCompare dir s).f = decide (s.a = s.hear s.hl) := zero
  rw [blockCompare_bc, sub_one_bne_zero, found, ← Bool.not_or, ← Bool.decide_or]

/-- Settles O41: each row is `blockCompare`, up or down; CPIR and CPDR go on from it by `repeatIf`. -/
theorem blockSearches : Obligations.BlockSearches := by
  intro s
  rw [BitVec.sub_eq_add_neg s.hl]
  exact ⟨completes_iteration rfl rfl rfl (blockCompare_post 1 s),
    completes_iteration rfl rfl rfl (blockCompare_post (-1) s),
    completes_repeatIf rfl (blockCompare_again 1 s) rfl rfl (blockCompare_post 1 s),
    completes_repeatIf rfl (blockCompare_again (-1) s) rfl rfl (blockCompare_post (-1) s)⟩

end Sys2Proof.Machine

namespace Sys2Proof.Machine

/-! ### Increments and decrements of a byte -/

/-- A mask set or not by a condition holds no bit outside itself. -/
theorem when_and_self (m : Byte) (p : Bool) : when m p &&& m = when m p := by
  cases p with
  | false => exact BitVec.zero_and
  | true => exact BitVec.and_self

/-- R289: the flags of an F that keeps C and takes the others from a result and from N, PV and H as they are given. -/
theorem flags_of_kept_carry (f res : Byte) (n p h : Bool) (f' : Byte)
    (e : f' = (f &&& maskC) ||| (sz res ||| when maskN n ||| when maskPV p ||| when maskH h)) :
    ResultFlags res f' ∧ flagH f' = h ∧ flagPV f' = p ∧ flagN f' = n ∧ flagC f' = flagC f := by
  obtain ⟨hr, hh, rest⟩ := flags_of_sz res (when maskH h) n p (flagC f) f' (by
    rw [e, and_maskC, when_and_self]
    ac_rfl)
  exact ⟨hr, hh.trans ((getLsbD_when ..).trans (Bool.and_true h)), rest⟩

theorem lowNibble_beq (v d : Byte) : (v &&& 0x0F == d) = decide (v.toNat % 16 = d.toNat) := by
  have low : (v &&& 0x0F).toNat = v.toNat % 16 := Nat.and_two_pow_sub_one_eq_mod v.toNat 4
  rw [beq_eq_decide, decide_eq_decide, ← BitVec.toNat_inj, low]

/-- R289, R63: the result of INC and its F, by arithmetic. -/
theorem inc8_result (f v : Byte) : IncResult f v (inc8 f v).1 (inc8 f v).2 := by
  obtain ⟨hr, hh, hp, hn, hc⟩ := flags_of_kept_carry f (v + 1) false (v + 1 == 0x80) (v + 1 &&& 0x0F == 0x00)
    (inc8 f v).2 (by rw [when_false, BitVec.or_zero]; rfl)
  refine ⟨BitVec.toNat_add v 1, hr, hh.trans (lowNibble_beq (v + 1) 0), hp.trans ?_, hn, hc⟩
  rw [beq_eq_decide, decide_eq_decide]
  bv_omega

/-- R289, R64: the result of DEC and its F, by arithmetic. -/
theorem dec8_result (f v : Byte) : DecResult f v (dec8 f v).1 (dec8 f v).2 := by
  obtain ⟨hr, hh, hp, hn, hc⟩ := flags_of_kept_carry f (v - 1) true (v - 1 == 0x7F) (v - 1 &&& 0x0F == 0x0F)
    (dec8 f v).2 rfl
  refine ⟨?_, hr, hh.trans (lowNibble_beq (v - 1) 15), hp.trans ?_, hn, hc⟩
  · change (v - 1).toNat = _
    bv_omega
  · rw [beq_eq_decide, decide_eq_decide]
    bv_omega

/-! ### A register or a half that is replaced -/

/-- An instruction that replaces a register by what `g` makes of F and of it. -/
theorem completes_modifyR8 {i : Instr} {s : State} {g : Byte → Byte → Byte × Byte} {r : Reg8} {cost : Nat}
    (e : exec i s = .next (((s.setR8 r (g s.f (s.r8 r)).1).setF (g s.f (s.r8 r)).2).charge cost))
    {post : Byte → Byte → Prop} (h : post (g s.f (s.r8 r)).1 (g s.f (s.r8 r)).2) :
    Completes i s cost [] fun u t => post (t.r8 r) t.f ∧ KeepsExceptR8F r u t := by
  refine completes_of_after e rfl (s.setR8_toShared r _) ⟨?_, setR8_setF_keepsExcept s r _ _ cost⟩
  rw [State.r8_charge, State.r8_setF, State.r8_setR8_same]
  exact h

theorem setHalf_setF_keepsExcept (s : State) (x : Index) (k : Half) (v f : Byte) (cost : Nat) :
    KeepsExceptHalf x k s { ((s.setHalf x k v).setF f).charge cost with f := s.f } := by
  have frame := (setHalf_keepsExcept s x k v).charge cost
  rwa [← s.setHalf_f x k v]

/-- An instruction that replaces a half of an index register by what `g` makes of F and of it. -/
theorem completes_modifyHalf {i : Instr} {s : State} {g : Byte → Byte → Byte × Byte} {x : Index} {k : Half}
    {cost : Nat}
    (e : exec i s = .next (((s.setHalf x k (g s.f (s.half x k)).1).setF (g s.f (s.half x k)).2).charge cost))
    {post : Byte → Byte → Prop} (h : post (g s.f (s.half x k)).1 (g s.f (s.half x k)).2) :
    Completes i s cost [] fun u t => post (t.half x k) t.f ∧ KeepsExceptHalf x k u { t with f := u.f } := by
  refine completes_of_after e rfl (s.setHalf_toShared x k _) ⟨?_, setHalf_setF_keepsExcept s x k _ _ cost⟩
  rw [State.half_charge, State.half_setF, State.half_setHalf_same]
  exact h

/-- Settles O43: each row replaces its operand and F by what `inc8` or `dec8` makes of them, a memory operand by one
read and one write. -/
theorem incrementsAndDecrements : Obligations.IncrementsAndDecrements := fun s =>
  ⟨fun _ => completes_modifyR8 rfl (inc8_result s.f _), fun _ => completes_modifyR8 rfl (dec8_result s.f _),
    fun _ _ => completes_modifyHalf rfl (inc8_result s.f _), fun _ _ => completes_modifyHalf rfl (dec8_result s.f _),
    completes_modifyMem rfl (inc8_result s.f _), completes_modifyMem rfl (dec8_result s.f _),
    fun _ _ => completes_modifyMem rfl (inc8_result s.f _), fun _ _ => completes_modifyMem rfl (dec8_result s.f _)⟩

end Sys2Proof.Machine

namespace Sys2Proof.Machine

/-! ### Flags that keep S, Z and PV -/

/-- The flags of an F that keeps S, Z and PV, takes Y and X from a byte, and H, N and C as they are given (R50). -/
theorem flags_of_kept_szp (f v : Byte) (h n c : Bool) (f' : Byte)
    (e : f' = (f &&& maskSZP) ||| when maskH h ||| when maskN n ||| when maskC c ||| (v &&& maskYX)) :
    KeepsSZP f f' ∧ flagY f' = v.getLsbD 5 ∧ flagH f' = h ∧ flagX f' = v.getLsbD 3 ∧ flagN f' = n ∧ flagC f' = c := by
  subst e
  simp [KeepsSZP, flagS, flagZ, flagY, flagH, flagX, flagPV, flagN, flagC, maskSZP, maskH, maskN, maskC, maskYX]

theorem and_keptSZPC (f : Byte) : f &&& (maskSZP ||| maskC) = f &&& maskSZP ||| when maskC (flagC f) := by
  rw [BitVec.and_or_distrib_left, and_maskC]

/-- The exclusive or with C's mask inverts C and leaves the bits beside it. -/
theorem xor_maskC_of_clear {x : Byte} (c : Bool) (h : x.getLsbD 0 = false) :
    (x ||| when maskC c) ^^^ maskC = x ||| when maskC (!c) := by
  revert x c
  decide

/-- R301: F after CPL, by its bits. -/
theorem cplFlags_result (f a : Byte) :
    KeepsSZP f (cplFlags f a) ∧ flagY (cplFlags f a) = a.getLsbD 5 ∧ flagH (cplFlags f a) = true ∧
      flagX (cplFlags f a) = a.getLsbD 3 ∧ flagN (cplFlags f a) = true ∧ flagC (cplFlags f a) = flagC f := by
  refine flags_of_kept_szp f a true true (flagC f) _ ?_
  rw [cplFlags, and_keptSZPC]
  change _ ||| when maskH true ||| when maskN true ||| _ = _
  ac_rfl

/-- R303: F after CCF, by its bits: H is the old C. -/
theorem ccfFlags_result (f a : Byte) :
    KeepsSZP f (ccfFlags f a) ∧ flagY (ccfFlags f a) = a.getLsbD 5 ∧ flagH (ccfFlags f a) = flagC f ∧
      flagX (ccfFlags f a) = a.getLsbD 3 ∧ flagN (ccfFlags f a) = false ∧ flagC (ccfFlags f a) = !flagC f := by
  have clear : ((f &&& maskSZP) ||| when maskH (flagC f) ||| (a &&& maskYX)).getLsbD 0 = false := by
    simp [maskSZP, maskH, maskYX]
  refine flags_of_kept_szp f a (flagC f) false (!flagC f) _ ?_
  calc ccfFlags f a
      = ((f &&& maskSZP) ||| when maskH (flagC f) ||| (a &&& maskYX) ||| when maskC (flagC f)) ^^^ maskC := by
        rw [ccfFlags, and_keptSZPC]
        ac_rfl
    _ = (f &&& maskSZP) ||| when maskH (flagC f) ||| when maskN false ||| when maskC (!flagC f) ||| (a &&& maskYX) := by
        rw [xor_maskC_of_clear _ clear, when_false, BitVec.or_zero]
        ac_rfl

/-- R304: F after SCF, by its bits. -/
theorem scfFlags_result (f a : Byte) :
    KeepsSZP f (scfFlags f a) ∧ flagY (scfFlags f a) = a.getLsbD 5 ∧ flagH (scfFlags f a) = false ∧
      flagX (scfFlags f a) = a.getLsbD 3 ∧ flagN (scfFlags f a) = false ∧ flagC (scfFlags f a) = true := by
  refine flags_of_kept_szp f a false false true _ ?_
  rw [when_false, when_false, BitVec.or_zero, BitVec.or_zero]
  rfl

/-! ### DAA, CPL, NEG, CCF and SCF -/

theorem completes_negate {i : Instr} {s : State} (e : exec i s = .next (negate s)) :
    Completes i s 8 [] fun u t => DifferenceResult 0 s.a false t.a t.f ∧ KeepsExceptAF u t :=
  completes_of_after e rfl rfl ⟨sub8_result 0 s.a false, rfl⟩

/-- Settles O45: DAA is `daa` and NEG the 8-bit subtraction from 0, whose results are known by arithmetic; CPL, CCF and
SCF keep S, Z and PV and take Y and X from A. -/
theorem accumulatorAndFlagOperations : Obligations.AccumulatorAndFlagOperations := by
  intro s
  refine ⟨?_, ?_, completes_negate rfl, fun _ => completes_negate rfl, ?_, ?_⟩
  · exact completes_of_after rfl rfl rfl ⟨daa_result s.a s.f, rfl⟩
  · obtain ⟨kept, hy, hh, hx, hn, hc⟩ := cplFlags_result s.f (~~~s.a)
    have inverted (k : Nat) (hk : k < 8) : (~~~s.a).getLsbD k = !s.a.getLsbD k := by
      rw [BitVec.getLsbD_not, decide_eq_true hk, Bool.true_and]
    exact completes_of_after rfl rfl rfl ⟨inverted, kept, hy, hh, hx, hn, hc, rfl⟩
  · obtain ⟨kept, hy, hh, hx, hn, hc⟩ := ccfFlags_result s.f s.a
    exact completes_of_after rfl rfl rfl ⟨kept, hy, hh, hx, hn, hc, rfl⟩
  · obtain ⟨kept, hy, hh, hx, hn, hc⟩ := scfFlags_result s.f s.a
    exact completes_of_after rfl rfl rfl ⟨kept, hy, hh, hx, hn, hc, rfl⟩

/-! ### CPU control -/

theorem completes_setMode {i : Instr} {s : State} {m : IMode} (e : exec i s = .next (setMode m s)) :
    Completes i s 8 [] fun u t => t = { u with im := m, cost := t.cost } :=
  completes_of_after e rfl rfl rfl

theorem completes_selectIndex {i : Instr} {s : State} {x : Index} (e : exec i s = .next (selectIndex x s)) :
    Completes i s 4 [] fun u t => t = { u with xyMode := some x, intDefer := true, cost := t.cost } :=
  completes_of_after e rfl rfl rfl

/-- Settles O46: the two NOPs only cost their T-states, HALT, DI and EI write the fields they name, every IM is
`setMode`, and DD and FD are `selectIndex`. -/
theorem cpuControl : Obligations.CpuControl := by
  intro s
  refine ⟨completes_charge rfl, fun _ => completes_charge rfl, ?halt, ?di, ?ei, completes_setMode rfl,
    fun _ => completes_setMode rfl, completes_setMode rfl, completes_setMode rfl, completes_setMode rfl,
    completes_setMode rfl, completes_selectIndex rfl, completes_selectIndex rfl⟩
  case halt => exact completes_of_after rfl rfl rfl rfl
  case di => exact completes_of_after rfl rfl rfl rfl
  case ei => exact completes_of_after rfl rfl rfl rfl

end Sys2Proof.Machine

namespace Sys2Proof.Machine

/-! ### 16-bit sums and differences -/

theorem getLsbD_hiByte (v : Word) {k : Nat} (h : k < 8) : (hiByte v).getLsbD k = v.getLsbD (8 + k) := by
  rw [hiByte, BitVec.getLsbD_extractLsb', decide_eq_true h, Bool.true_and]

theorem word_getLsbD_eq_decide (v : Word) (k : Nat) : v.getLsbD k = decide (v.toNat / 2 ^ k % 2 = 1) :=
  Nat.testBit_eq_decide_div_mod_eq

theorem word_toInt_eq (v : Word) : v.toInt = (v.toNat : Int) - 65536 * ((v.toNat / 32768 : Nat) : Int) := by
  have := v.isLt
  rw [BitVec.toInt_eq_toNat_cond]
  split <;> omega

theorem and_signBit16_ne_zero (v : Word) : (v &&& 0x8000 != 0) = v.getLsbD 15 := by
  change (v &&& BitVec.twoPow 16 15 != 0) = _
  rw [BitVec.and_twoPow]
  cases v.getLsbD 15 <;> rfl

/-- R330: bit 12 of `a ^ b ^ r` is the carry past bit 11. -/
theorem halfCarry16_of_sum {a b r : Word} {c : Nat} (hc : c ≤ 1) (h : r.toNat = (a.toNat + b.toNat + c) % 65536) :
    (a ^^^ b ^^^ r).getLsbD 12 = decide (4095 < a.toNat % 4096 + b.toNat % 4096 + c) := by
  simp only [BitVec.getLsbD_xor]
  simp only [word_getLsbD_eq_decide, xor_decide, decide_eq_decide]
  omega

theorem halfBorrow16_of_difference {a b r : Word} {c : Nat} (hc : c ≤ 1)
    (h : r.toNat = (a.toNat + 131072 - b.toNat - c) % 65536) :
    (a ^^^ b ^^^ r).getLsbD 12 = decide (a.toNat % 4096 < b.toNat % 4096 + c) := by
  have hb := b.isLt
  simp only [BitVec.getLsbD_xor]
  simp only [word_getLsbD_eq_decide, xor_decide, decide_eq_decide]
  omega

theorem overflow16_of_sum {a b r : Word} {c : Nat} (hc : c ≤ 1) (h : r.toNat = (a.toNat + b.toNat + c) % 65536) :
    ((a ^^^ r) &&& (b ^^^ r)).getLsbD 15 =
      decide (a.toInt + b.toInt + c < -32768 ∨ 32767 < a.toInt + b.toInt + c) := by
  have ha := a.isLt
  have hb := b.isLt
  simp only [BitVec.getLsbD_and, BitVec.getLsbD_xor]
  simp only [word_getLsbD_eq_decide, xor_decide, ← Bool.decide_and, decide_eq_decide, word_toInt_eq]
  omega

theorem overflow16_of_difference {a b r : Word} {c : Nat} (hc : c ≤ 1)
    (h : r.toNat = (a.toNat + 131072 - b.toNat - c) % 65536) :
    ((a ^^^ b) &&& (a ^^^ r)).getLsbD 15 =
      decide (a.toInt - b.toInt - c < -32768 ∨ 32767 < a.toInt - b.toInt - c) := by
  have ha := a.isLt
  have hb := b.isLt
  simp only [BitVec.getLsbD_and, BitVec.getLsbD_xor]
  simp only [word_getLsbD_eq_decide, xor_decide, ← Bool.decide_and, decide_eq_decide, word_toInt_eq]
  omega

/-! ### F after a 16-bit sum or difference -/

theorem and_maskH (v : Byte) : v &&& maskH = when maskH (v.getLsbD 4) := by
  revert v
  decide

theorem word_beq_zero_eq_decide (r : Word) : (r == 0) = decide (r.toNat = 0) := by
  rw [beq_eq_decide, decide_eq_decide, ← BitVec.toNat_inj]
  rfl

/-- R331, R332: the flags of an F that takes S, Y and X from the high byte of a result, Z from the whole of it, H from
bit 12 of another word, and PV, N and C as they are given. -/
theorem flags_of_word (r x : Word) (p n c : Bool) (f : Byte)
    (e : f = (hiByte r &&& (maskS ||| maskYX)) ||| when maskZ (r == 0) ||| (hiByte x &&& maskH) ||| when maskPV p
      ||| when maskN n ||| when maskC c) :
    ResultFlags16 r f ∧ flagH f = x.getLsbD 12 ∧ flagPV f = p ∧ flagN f = n ∧ flagC f = c := by
  subst e
  rw [ResultFlags16, ← word_beq_zero_eq_decide]
  simp [flagS, flagZ, flagY, flagH, flagX, flagPV, flagN, flagC, maskS, maskZ, maskH, maskPV, maskN, maskC, maskYX,
    -BitVec.getLsbD_eq_getElem, getLsbD_hiByte]

/-- R330: the result of ADD and its F, by arithmetic. -/
theorem add16_result (f : Byte) (a b : Word) : Sum16Result f a b (add16 f a b).1 (add16 f a b).2 := by
  have hr : (add16 f a b).1.toNat = (a.toNat + b.toNat) % 65536 := BitVec.toNat_ofNat ..
  obtain ⟨kept, hy, hh, hx, hn, hc⟩ := flags_of_kept_szp f (hiByte (add16 f a b).1)
    ((hiByte (a ^^^ b ^^^ (add16 f a b).1)).getLsbD 4) false (decide (65535 < a.toNat + b.toNat)) (add16 f a b).2 (by
      rw [← and_maskH, when_false, BitVec.or_zero, BitVec.or_assoc, BitVec.or_comm (when maskC _),
        ← BitVec.or_assoc]
      rfl)
  exact ⟨hr, kept, hh.trans ((getLsbD_hiByte _ (by decide)).trans (halfCarry16_of_sum (c := 0) (by decide) hr)),
    hy.trans (getLsbD_hiByte _ (by decide)), hx.trans (getLsbD_hiByte _ (by decide)), hn, hc⟩

/-- R331: the result of ADC and its F, by arithmetic. -/
theorem adc16_result (f : Byte) (a b : Word) : Adc16Result f a b (adc16 f a b).1 (adc16 f a b).2 := by
  have hc := carryIn_le_one (flagC f)
  have hres : (adc16 f a b).1.toNat = (a.toNat + b.toNat + carryIn (flagC f)) % 65536 := by
    rw [carryIn_eq_toNat]
    exact BitVec.toNat_ofNat ..
  obtain ⟨hr, hh, hp, hn, hcy⟩ := flags_of_word (adc16 f a b).1 (a ^^^ b ^^^ (adc16 f a b).1)
    ((a ^^^ (adc16 f a b).1) &&& (b ^^^ (adc16 f a b).1) &&& 0x8000 != 0) false
    (decide (65535 < a.toNat + b.toNat + (flagC f).toNat)) (adc16 f a b).2 (by rw [when_false, BitVec.or_zero]; rfl)
  refine ⟨hres, hr, hh.trans (halfCarry16_of_sum hc hres), hp.trans ?_, hn, hcy.trans ?_⟩
  · rw [and_signBit16_ne_zero, overflow16_of_sum hc hres]
  · rw [carryIn_eq_toNat]

/-- R332: the result of SBC and its F, by arithmetic. -/
theorem sbc16_result (f : Byte) (a b : Word) : Sbc16Result f a b (sbc16 f a b).1 (sbc16 f a b).2 := by
  have hb := b.isLt
  have hc := carryIn_le_one (flagC f)
  have hres : (sbc16 f a b).1.toNat = (a.toNat + 131072 - b.toNat - carryIn (flagC f)) % 65536 := by
    rw [carryIn_eq_toNat] at *
    simp only [sbc16, BitVec.toNat_ofInt]
    omega
  obtain ⟨hr, hh, hp, hn, hcy⟩ := flags_of_word (sbc16 f a b).1 (a ^^^ b ^^^ (sbc16 f a b).1)
    ((a ^^^ b) &&& (a ^^^ (sbc16 f a b).1) &&& 0x8000 != 0) true
    (decide ((a.toNat : Int) - b.toNat - (flagC f).toNat < 0)) (sbc16 f a b).2 rfl
  refine ⟨hres, hr, hh.trans (halfBorrow16_of_difference hc hres), hp.trans ?_, hn, hcy.trans ?_⟩
  · rw [and_signBit16_ne_zero, overflow16_of_difference hc hres]
  · rw [carryIn_eq_toNat, decide_eq_decide]
    omega

/-! ### 16-bit arithmetic -/

/-- An instruction that leaves a word in HL and a byte in F. -/
theorem completes_setHl_setF {i : Instr} {s : State} {v : Word} {f : Byte} {cost : Nat}
    (e : exec i s = .next (((s.setHl v).setF f).charge cost)) {post : Word → Byte → Prop} (h : post v f) :
    Completes i s cost [] fun u t => post t.hl t.f ∧ KeepsExceptRp .hl u { t with f := u.f } := by
  refine completes_of_after e rfl rfl ⟨?_, (setRp_keepsExcept s .hl v).charge cost⟩
  rw [State.hl_charge, State.hl_setF, State.hl_setHl]
  exact h

/-- An instruction that leaves a word in an index register and a byte in F. -/
theorem completes_setXy_setF {i : Instr} {s : State} {x : Index} {v : Word} {f : Byte} {cost : Nat}
    (e : exec i s = .next (((s.setXy x v).setF f).charge cost)) {post : Word → Byte → Prop} (h : post v f) :
    Completes i s cost [] fun u t => post (t.xy x) t.f ∧ KeepsExceptXy x u { t with f := u.f } := by
  have frame : KeepsExceptXy x s { ((s.setXy x v).setF f).charge cost with f := s.f } := by
    have kept := (setXy_keepsExcept s x v).charge cost
    rwa [← s.setXy_f x v]
  refine completes_of_after e rfl (s.setXy_toShared x v) ⟨?_, frame⟩
  rw [State.xy_charge, State.xy_setF, State.xy_setXy_same]
  exact h

/-- What an instruction completes with may be weakened. -/
theorem Completes.imp {i : Instr} {s : State} {cost : Nat} {evs : List BusEvent} {post post' : State → State → Prop}
    (c : Completes i s cost evs post) (h : ∀ u t, post u t → post' u t) : Completes i s cost evs post' := by
  obtain ⟨t, e, hc, hb, hm, hp⟩ := c
  exact ⟨t, e, hc, hb, hm, h _ t hp⟩

theorem word_toNat_sub_one (v : Word) : (v - 1).toNat = (v.toNat + 65535) % 65536 := by
  bv_omega

/-- Settles O47: ADD, ADC and SBC leave what `add16`, `adc16` and `sbc16` give, whose results are known by arithmetic;
INC and DEC write their register alone. -/
theorem sixteenBitArithmetic : Obligations.SixteenBitArithmetic := fun s =>
  ⟨fun ss => completes_setHl_setF rfl (add16_result s.f s.hl (s.rp ss)),
    fun x pp => completes_setXy_setF rfl (add16_result s.f (s.xy x) (s.rx x pp)),
    fun ss => completes_setHl_setF rfl (adc16_result s.f s.hl (s.rp ss)),
    fun ss => completes_setHl_setF rfl (sbc16_result s.f s.hl (s.rp ss)),
    fun _ => (completes_setRp rfl).imp fun _ _ ⟨e, kept⟩ => ⟨e ▸ BitVec.toNat_add _ 1, kept⟩,
    fun _ => (completes_setXy rfl).imp fun _ _ ⟨e, kept⟩ => ⟨e ▸ BitVec.toNat_add _ 1, kept⟩,
    fun _ => (completes_setRp rfl).imp fun _ _ ⟨e, kept⟩ => ⟨e ▸ word_toNat_sub_one _, kept⟩,
    fun _ => (completes_setXy rfl).imp fun _ _ ⟨e, kept⟩ => ⟨e ▸ word_toNat_sub_one _, kept⟩⟩

end Sys2Proof.Machine

namespace Sys2Proof.Machine

/-! ### Rotates of A and of a register -/

/-- R351 to R354: the moved A and its F, by arithmetic and by F's bits. -/
theorem rotAcc_result (o : RotOp) (a f : Byte) : RotAccResult o a f (rotAcc o a f).1 (rotAcc o a f).2 := by
  obtain ⟨number, out⟩ := rotBits_result o (flagC f) a
  obtain ⟨kept, hy, hh, hx, hn, hc⟩ := flags_of_kept_szp f (rotAcc o a f).1 false false (rotBits o (flagC f) a).2
    (rotAcc o a f).2 (by rw [when_false, when_false, BitVec.or_zero, BitVec.or_zero]; rfl)
  exact ⟨number, kept, hy, hh, hx, hn, hc.trans out⟩

theorem completes_rotateA {i : Instr} {s : State} {o : RotOp} (e : exec i s = .next (rotateA o s)) :
    Completes i s 4 [] fun u t => RotAccResult o s.a s.f t.a t.f ∧ KeepsExceptAF u t :=
  completes_of_after e rfl rfl ⟨rotAcc_result o s.a s.f, rfl⟩

/-- Settles O48: the accumulator rotates are `rotateA`, which keeps S, Z and PV; each row of a register dispatches to
`rotateR8`, with the byte and the flags of `rot`. -/
theorem rotatesOfRegisters : Obligations.RotatesOfRegisters := by
  intro s
  refine ⟨completes_rotateA rfl, completes_rotateA rfl, completes_rotateA rfl, completes_rotateA rfl, fun o r => ?_⟩
  have row : exec (rotR o r) s = .next (rotateR8 o r s) := by cases o <;> rfl
  exact completes_modifyR8 row (rot_result o s.f _)

/-! ### Digit rotates -/

theorem toNat_or_of_digits {hi lo : Byte} {h l : Nat} (hhi : hi.toNat = h * 16) (hlo : lo.toNat = l) (hl : l < 16) :
    (hi ||| lo).toNat = h * 16 + l := by
  subst hlo
  rw [BitVec.toNat_or, hhi, ← Nat.shiftLeft_eq h 4, Nat.shiftLeft_add_eq_or_of_lt hl]

theorem shiftLeft_four_toNat (v : Byte) : (v <<< 4).toNat = v.toNat % 16 * 16 := by
  rw [BitVec.toNat_shiftLeft, Nat.shiftLeft_eq]
  omega

theorem shiftRight_four_toNat (v : Byte) : (v >>> 4).toNat = v.toNat / 16 :=
  Nat.shiftRight_eq_div_pow ..

theorem highDigit_lt (v : Byte) : v.toNat / 16 < 16 :=
  Nat.div_lt_of_lt_mul v.isLt

theorem lowDigit_lt (v : Byte) : v.toNat % 16 < 16 :=
  Nat.mod_lt _ (by decide)

theorem highNibble_toNat (v : Byte) : (v &&& 0xF0).toNat = v.toNat / 16 * 16 := by
  have cleared : v &&& 0xF0 = (v >>> 4) <<< 4 := (BitVec.shiftLeft_ushiftRight (x := v) (n := 4)).symm
  calc (v &&& 0xF0).toNat = ((v >>> 4) <<< 4).toNat := congrArg _ cleared
    _ = v.toNat / 16 * 16 := by
      rw [shiftLeft_four_toNat, shiftRight_four_toNat, Nat.mod_eq_of_lt (highDigit_lt v)]

/-- A digit rotate leaves its two bytes, the new A with the flags of a byte that was made. -/
theorem completes_rotateDigits {i : Instr} {s : State} {w a : Byte} {n : Nat}
    (e : exec i s = .next (rotateDigits w a (memRead s.hl s).2)) (h : a.toNat = n) :
    Completes i s 18 [s.readEv s.hl, .memWrite s.hl w] fun u t =>
      t.a.toNat = n ∧ ReadFlags s.f t.a t.f ∧ StoredByte s.hl w s t ∧ KeepsExceptAF u t :=
  completes_of_after e rfl rfl ⟨h, readFlags_inFlags s.f a, storedByte_of_read_write rfl, rfl⟩

/-- Settles O50: both rows end in `rotateDigits`, and each of their bytes joins a high and a low digit. -/
theorem digitRotates : Obligations.DigitRotates := by
  intro s
  refine ⟨⟨_, ?rldByte, completes_rotateDigits rfl ?rldA⟩, ⟨_, ?rrdByte, completes_rotateDigits rfl ?rrdA⟩⟩
  case rldByte => exact toNat_or_of_digits (shiftLeft_four_toNat _) (lowNibble_toNat _) (lowDigit_lt _)
  case rldA => exact toNat_or_of_digits (highNibble_toNat _) (shiftRight_four_toNat _) (highDigit_lt _)
  case rrdByte => exact toNat_or_of_digits (shiftLeft_four_toNat _) (shiftRight_four_toNat _) (highDigit_lt _)
  case rrdA => exact toNat_or_of_digits (highNibble_toNat _) (lowNibble_toNat _) (lowDigit_lt _)

end Sys2Proof.Machine

namespace Sys2Proof.Machine

/-! ### Single bits -/

theorem bitMask_eq_twoPow (b : Fin 8) : bitMask b = BitVec.twoPow 8 b.val := rfl

theorem getLsbD_bitMask (b : Fin 8) (k : Nat) : (bitMask b).getLsbD k = decide (k = b.val) := by
  rw [bitMask_eq_twoPow, BitVec.getLsbD_twoPow, decide_eq_true b.isLt, Bool.true_and, decide_eq_decide]
  exact eq_comm

theorem and_bitMask (b : Fin 8) (v : Byte) : v &&& bitMask b = when (bitMask b) (v.getLsbD b.val) :=
  BitVec.and_twoPow v b.val

/-- R61: the entry of a tested byte that holds at most bit b. -/
theorem szBit_when_bitMask (b : Fin 8) (p : Bool) :
    szBit (when (bitMask b) p) = when maskS (decide (b.val = 7) && p) ||| when (maskZ ||| maskPV) (!p) := by
  revert b p
  decide

/-- R400 to R402: F after a bit test, by its bits. -/
theorem bitFlags_result (f : Byte) (b : Fin 8) (v yx : Byte) : BitFlags f b v yx (bitFlags f b v yx) := by
  rw [bitFlags, and_bitMask, szBit_when_bitMask]
  simp [BitFlags, flagS, flagZ, flagY, flagH, flagX, flagPV, flagN, flagC, maskS, maskZ, maskH, maskPV, maskC, maskYX]

/-- A bit test of the byte that one read hears. -/
theorem completes_testBitOfMem {i : Instr} {s : State} {b : Fin 8} {a : Word} {yx : Byte} {cost : Nat}
    (e : exec i s = .next (((s.after [s.readEv a]).setF (bitFlags s.f b (s.hear a) yx)).charge cost)) :
    Completes i s cost [s.readEv a] fun u t => BitFlags s.f b (s.hear a) yx t.f ∧ KeepsExceptF u t :=
  completes_of_after e rfl rfl ⟨bitFlags_result s.f b _ yx, rfl⟩

/-- Settles O51: every row writes F alone, with `bitFlags` of its byte; the aliases are the row of (XY+d). -/
theorem bitTests : Obligations.BitTests := fun s b =>
  ⟨fun r => completes_of_after rfl rfl rfl ⟨bitFlags_result s.f b (s.r8 r) (s.r8 r), rfl⟩,
    completes_testBitOfMem rfl, fun _ _ => completes_testBitOfMem rfl, fun _ _ _ => completes_testBitOfMem rfl⟩

theorem getLsbD_withBit (b : Fin 8) (v : Byte) (k : Nat) :
    (withBit b v).getLsbD k = (decide (k = b.val) || v.getLsbD k) := by
  rw [withBit, BitVec.getLsbD_or, getLsbD_bitMask, Bool.or_comm]

theorem getLsbD_withoutBit (b : Fin 8) (v : Byte) {k : Nat} (hk : k < 8) :
    (withoutBit b v).getLsbD k = (!decide (k = b.val) && v.getLsbD k) := by
  rw [withoutBit, BitVec.getLsbD_and, BitVec.getLsbD_not, getLsbD_bitMask, decide_eq_true hk, Bool.true_and,
    Bool.and_comm]

/-- An instruction that replaces a byte of memory and writes no register. -/
theorem completes_changeMem {i : Instr} {s : State} {g : Byte → Byte} {a : Word} {cost : Nat}
    (e : exec i s = .next (changeMem g a cost s)) :
    Completes i s cost [s.readEv a, .memWrite a (g (s.hear a))] fun u t =>
      StoredByte a (g (s.hear a)) s t ∧ KeepsAll u t :=
  completes_of_after e rfl rfl ⟨storedByte_of_read_write rfl, rfl⟩

theorem changeMemCopy_eq (g : Byte → Byte) (a : Word) (r : Reg8) (s : State) :
    changeMemCopy g a r s =
      ((s.after [s.readEv a, .memWrite a (g (s.hear a))]).setR8 r (g (s.hear a))).charge 19 := rfl

/-- The form with a register: the byte written is left there too (R406, R410). -/
theorem completes_changeMemCopy {i : Instr} {s : State} {g : Byte → Byte} {a : Word} {r : Reg8}
    (e : exec i s = .next (changeMemCopy g a r s)) :
    Completes i s 19 [s.readEv a, .memWrite a (g (s.hear a))] fun u t =>
      StoredByte a (g (s.hear a)) s t ∧ t.r8 r = g (s.hear a) ∧ KeepsExceptR8 r u t := by
  rw [changeMemCopy_eq] at e
  have shared := (s.after [s.readEv a, .memWrite a (g (s.hear a))]).setR8_toShared r (g (s.hear a))
  exact completes_of_after e rfl shared ⟨storedByte_of_read_write (congrArg Shared.mem shared),
    (State.r8_charge ..).trans (State.r8_setR8_same ..), (setR8_keepsExcept _ r _).charge 19⟩

/-- Settles O52: every row replaces its byte by `withBit` or `withoutBit` of it, whose bits are known. -/
theorem bitSetsAndResets : Obligations.BitSetsAndResets := by
  intro s b
  have made (v : Byte) : ∀ k, k < 8 → (withBit b v).getLsbD k = (decide (k = b.val) || v.getLsbD k) :=
    fun k _ => getLsbD_withBit b v k
  have cleared (v : Byte) : ∀ k, k < 8 → (withoutBit b v).getLsbD k = (!decide (k = b.val) && v.getLsbD k) :=
    fun _ hk => getLsbD_withoutBit b v hk
  refine ⟨fun r => ?setR, fun r => ?resetR, ⟨_, made _, completes_changeMem rfl⟩,
    ⟨_, cleared _, completes_changeMem rfl⟩,
    fun _ _ => ⟨_, made _, completes_changeMem rfl, fun _ => completes_changeMemCopy rfl⟩,
    fun _ _ => ⟨_, cleared _, completes_changeMem rfl, fun _ => completes_changeMemCopy rfl⟩⟩
  case setR => exact (completes_setR8 (evs := []) rfl).imp fun _ _ ⟨h, frame⟩ => ⟨h ▸ made (s.r8 r), frame⟩
  case resetR => exact (completes_setR8 (evs := []) rfl).imp fun _ _ ⟨h, frame⟩ => ⟨h ▸ cleared (s.r8 r), frame⟩

end Sys2Proof.Machine

namespace Sys2Proof.Machine

/-! ### Jumps -/

/-- An instruction that writes PC alone. -/
theorem completes_jump {i : Instr} {s : State} {target v : Word} {cost : Nat}
    (e : exec i s = .next ((s.setPc target).charge cost)) (h : target = v) :
    Completes i s cost [] fun u t => t.pc = v ∧ KeepsExceptPc u t :=
  completes_of_after e rfl rfl ⟨h, rfl⟩

/-- R138: PC plus the signed displacement, modulo 65536. -/
theorem add_sext_eq_ofInt (pc : Word) (e : Byte) : pc + sext e = BitVec.ofInt 16 (pc.toNat + e.toInt) := by
  rw [sext_eq_ofInt, BitVec.ofInt_add, BitVec.ofInt_natCast, BitVec.ofNat_toNat, BitVec.setWidth_eq]

theorem completes_jumpRelIf_taken {i : Instr} {s : State} {taken : Bool} {d : Byte}
    (e : exec i s = .next (jumpRelIf taken d s)) (h : taken = true) :
    Completes i s 12 [] fun u t => t.pc = BitVec.ofInt 16 (s.pc.toNat + d.toInt) ∧ KeepsExceptPc u t :=
  completes_jump (e.trans (congrArg Host.Outcome.next (if_pos h))) (add_sext_eq_ofInt s.pc d)

theorem completes_jumpRelIf_failed {i : Instr} {s : State} {taken : Bool} {d : Byte}
    (e : exec i s = .next (jumpRelIf taken d s)) (h : taken = false) :
    Completes i s 7 [] fun u t => t.pc = s.pc ∧ KeepsExceptPc u t :=
  completes_jump (target := s.pc) (e.trans (congrArg Host.Outcome.next (if_neg (Bool.eq_false_iff.mp h)))) rfl

/-- R426, R428: a relative jump where a flag is set. -/
theorem completes_jumpRelIf {i : Instr} {s : State} {flag : Bool} {d : Byte}
    (e : exec i s = .next (jumpRelIf flag d s)) :
    Completes i s (if flag then 12 else 7) [] fun u t =>
      t.pc = (if flag then BitVec.ofInt 16 (s.pc.toNat + d.toInt) else s.pc) ∧ KeepsExceptPc u t := by
  cases flag with
  | true => exact completes_jumpRelIf_taken e rfl
  | false => exact completes_jumpRelIf_failed e rfl

/-- R425, R427: a relative jump where a flag is clear. -/
theorem completes_jumpRelIf_not {i : Instr} {s : State} {flag : Bool} {d : Byte}
    (e : exec i s = .next (jumpRelIf (!flag) d s)) :
    Completes i s (if flag then 7 else 12) [] fun u t =>
      t.pc = (if flag then s.pc else BitVec.ofInt 16 (s.pc.toNat + d.toInt)) ∧ KeepsExceptPc u t := by
  cases flag with
  | true => exact completes_jumpRelIf_failed e rfl
  | false => exact completes_jumpRelIf_taken e rfl

theorem completes_jpCcNn (s : State) (cc : Cond) (nn : Word) :
    Completes (.jpCcNn cc nn) s 10 [] fun u t => t.pc = (if condHolds s.f cc then nn else s.pc) ∧ KeepsExceptPc u t := by
  refine completes_jump (congrArg (fun t : State => Host.Outcome.next (t.charge 10)) ?_) rfl
  split
  · rfl
  · rfl

theorem toNat_pred (v : Byte) : (v - 1).toNat = (v.toNat + 255) % 256 := by bv_omega

theorem pred_eq_zero_iff (v : Byte) : v - 1 = 0 ↔ v.toNat = 1 := by bv_omega

/-- R431: DJNZ ends where B was 1. -/
theorem completes_djnz (s : State) (d : Byte) :
    Completes (.djnz d) s (if s.b.toNat = 1 then 8 else 13) [] fun u t =>
      t.b.toNat = (s.b.toNat + 255) % 256 ∧
      t.pc = (if s.b.toNat = 1 then s.pc else BitVec.ofInt 16 (s.pc.toNat + d.toInt)) ∧
      t = { u with b := t.b, pc := t.pc, cost := t.cost } := by
  have e := execDjnz_eq d s
  by_cases last : s.b.toNat = 1
  · rw [if_pos ((pred_eq_zero_iff s.b).mpr last)] at e
    simp only [if_pos last]
    exact completes_of_after e rfl rfl ⟨toNat_pred s.b, rfl, rfl⟩
  · rw [if_neg (mt (pred_eq_zero_iff s.b).mp last)] at e
    simp only [if_neg last]
    exact completes_of_after e rfl rfl ⟨toNat_pred s.b, add_sext_eq_ofInt s.pc d, rfl⟩

/-- Settles O53: a jump writes PC with its target, a conditional one only where its condition holds. -/
theorem jumps : Obligations.Jumps := fun s =>
  ⟨fun _ => completes_jump rfl rfl, completes_jpCcNn s, fun e => completes_jump rfl (add_sext_eq_ofInt s.pc e),
    fun _ => completes_jumpRelIf_not rfl, fun _ => completes_jumpRelIf rfl, fun _ => completes_jumpRelIf_not rfl,
    fun _ => completes_jumpRelIf rfl, completes_jump rfl rfl, fun _ => completes_jump rfl rfl, completes_djnz s⟩

/-! ### Block inputs and outputs -/

theorem when_mask_or (m n : Byte) (p : Bool) : when (m ||| n) p = when m p ||| when n p := by
  cases p with
  | false => exact BitVec.or_zero.symm
  | true => rfl

/-- R449: F after a block input or output, by arithmetic. -/
theorem ioBlockFlags_result (b v : Byte) (k : Nat) : BlockIoFlags b v k (ioBlockFlags b v k) := by
  obtain ⟨hr, hh, hp, hn, hc⟩ := flags_of_sz b (when maskH (decide (255 < k))) (v.getLsbD 7)
    (parityEven (BitVec.ofNat 8 (k % 8) ^^^ b)) (decide (255 < k)) (ioBlockFlags b v k) (by
      rw [when_and_self, ioBlockFlags, when_mask_or]
      ac_rfl)
  exact ⟨hr, hh.trans ((getLsbD_when ..).trans (Bool.and_true _)), hp.trans (parityEven_eq_evenOnes _),
    hn.trans (getLsbD_seven v), hc⟩

/-- A byte that is written after a port read stands where it was written. -/
theorem storedByte_of_input {s t : State} {p a : Word} {v w : Byte}
    (h : t.mem = (s.after [.portRead p v, .memWrite a w]).mem) : StoredByte a w s t := by
  intro k
  have read (b : Word) : t.peek b = if a = b then w else s.peek b := (Shared.peek_congr h b).trans (peek_after k _ b)
  exact ⟨(read a).trans (if_pos rfl), fun b n => (read b).trans (if_neg n.symm)⟩

/-- R453, R455: one input with HL moving by `dir`; the port is addressed with the old B. -/
theorem blockIn_post (dir : Word) (s : State) (pc : Word) (cost : Nat) :
    BlockInPost (s.hl + dir) (s.hearPort s.bc)
      ((s.hearPort s.bc).toNat + (s.c.toNat + (loByte dir).toNat) % 256) s
      (s.after [.portRead s.bc (s.hearPort s.bc), .memWrite s.hl (s.hearPort s.bc)])
      (((blockIn dir s).setPc pc).charge cost) :=
  ⟨toNat_pred s.b, wordOf_hiByte_loByte _, storedByte_of_input rfl, ioBlockFlags_result .., rfl⟩

/-- R460, R462: one output with HL moving by `dir`; the port is addressed with the new B. -/
theorem blockOut_post (dir : Word) (s : State) (pc : Word) (cost : Nat) :
    BlockOutPost (s.hl + dir) ((s.hear s.hl).toNat + (s.hl + dir).toNat % 256) s
      (s.after [s.readEv s.hl, .portWrite (wordOf (s.b - 1) s.c) (s.hear s.hl)])
      (((blockOut dir s).setPc pc).charge cost) := by
  rw [← loByte_toNat]
  exact ⟨toNat_pred s.b, wordOf_hiByte_loByte _, ioBlockFlags_result .., rfl⟩

/-- R454: another iteration is due unless B was 1. -/
theorem pred_bne_zero (v : Byte) : (v - 1 != 0) = !decide (v.toNat = 1) := by
  rw [bne, beq_eq_decide, Bool.not_inj_iff, decide_eq_decide]
  exact pred_eq_zero_iff v

/-- Settles O57: each row is `blockIn` or `blockOut`, up or down; the repeating forms go on from it by `repeatIf`. -/
theorem blockInputsAndOutputs : Obligations.BlockInputsAndOutputs := by
  rintro s _ rfl
  rw [BitVec.sub_eq_add_neg s.hl]
  exact ⟨completes_iteration rfl rfl rfl (blockIn_post 1 s),
    completes_repeatIf rfl (pred_bne_zero s.b) rfl rfl (blockIn_post 1 s),
    completes_iteration rfl rfl rfl (blockIn_post (-1) s),
    completes_repeatIf rfl (pred_bne_zero s.b) rfl rfl (blockIn_post (-1) s),
    completes_iteration rfl rfl rfl (blockOut_post 1 s),
    completes_repeatIf rfl (pred_bne_zero s.b) rfl rfl (blockOut_post 1 s),
    completes_iteration rfl rfl rfl (blockOut_post (-1) s),
    completes_repeatIf rfl (pred_bne_zero s.b) rfl rfl (blockOut_post (-1) s)⟩

end Sys2Proof.Machine

namespace Sys2Proof.Machine

/-! ### Memory after an acceptance -/

theorem written_of_no_writes {evs : List BusEvent} (n : ∀ a v, BusEvent.memWrite a v ∉ evs) (b : Word) (old : Byte) :
    written evs b old = old := by
  induction evs with
  | nil => rfl
  | cons ev evs ih =>
    have later := ih fun a v h => n a v (List.mem_cons_of_mem ev h)
    cases ev with
    | memWrite a v => exact absurd List.mem_cons_self (n a v)
    | _ => exact later

/-- A push with operations before and after it that write nothing. -/
theorem storedWord_of_push_between {s t : State} {v : Word} {before later : List BusEvent}
    (hb : ∀ a w, BusEvent.memWrite a w ∉ before) (hl : ∀ a w, BusEvent.memWrite a w ∉ later)
    (h : t.mem = (s.after (before ++ s.pushEvs v ++ later)).mem) : StoredWord (s.sp - 2) v s t := by
  intro k
  have same (b : Word) : t.peek b = (s.after (s.pushEvs v)).peek b := by
    rw [Shared.peek_congr h, peek_after k, peek_after k, written_append, written_append, written_of_no_writes hb,
      written_of_no_writes hl]
  simpa only [same] using storedWord_of_pushEvs (s := s) (v := v) rfl k

/-! ### The NMI -/

theorem step_of_nmi {s : State} (hd : s.intDefer = false) (hn : s.nmiPending = true) :
    step s = .next (acceptNmi s.beginStep) :=
  step_of_nonInstruction (nonInstructionStep_nmi (s := s.beginStep) hd hn)

theorem acceptNmi_eq (s : State) :
    acceptNmi s =
      { ({ s with nmiPending := false } : State).after (s.pushEvs s.resumeAt) with
        pc := 0x0066
        sp := s.sp - 2
        iff1 := false
        halt := false
        cost := 11 } := by
  rw [acceptNmi, leaveHalt_eq]
  rfl

/-- Settles O14: the acceptance clears the latch and IFF1, leaves HALT and pushes the address to resume at. -/
theorem nmiAcceptance : Obligations.NmiAcceptance := by
  intro s hd hn
  refine ⟨_, (step_of_nmi hd hn).trans (congrArg Host.Outcome.next (acceptNmi_eq s.beginStep)), ?_, ?_, rfl⟩
  · exact storedWord_of_pushEvs (s := { s.beginStep with nmiPending := false }) rfl
  · exact State.after_bus { s.beginStep with nmiPending := false } (s.pushEvs s.resumeAt)

/-! ### The acknowledge of a maskable interrupt -/

theorem step_of_acceptsIrq {s : State} (h : s.AcceptsIrq) : step s = .next (acceptIrq s.beginStep) := by
  obtain ⟨hd, hn, hi, hr⟩ := h
  exact step_of_nonInstruction (nonInstructionStep_irq (s := s.beginStep) hd hn hi hr)

/-- A request is the line without a chain and the grant with one (R485). -/
theorem Shared.irqRequested_of_no_chain {h : Shared} (e : h.nDev = 0) : h.irqRequested = h.irqLine := if_pos e

theorem Shared.irqRequested_of_chain {h : Shared} (e : h.nDev ≠ 0) : h.irqRequested = h.requestDev.isSome := if_neg e

/-- The datum of an acknowledge: what the host answers to it, and 0 where there is none (R491). -/
def State.ackDatum (s : State) : Nat := if s.nDev = 0 ∧ s.im = .im1 then 0 else s.hearDatum

theorem State.ackDatum_of_mode {s : State} (hm : s.im ≠ .im1) : s.ackDatum = s.hearDatum :=
  if_neg fun h => hm h.2

theorem acknowledge_eq {s : State} (hr : s.irqRequested = true) :
    acknowledge s =
      (s.ackDatum, ({ s with requestDev := if s.nDev = 0 then s.requestDev else none } : State).after s.ackEvs) := by
  by_cases chain : s.nDev = 0
  · rw [State.ackEvs, if_pos chain, if_pos chain]
    by_cases hm : s.im = .im1
    · have silent : acknowledge s = (0, s) := by simp only [acknowledge, chain, hm, if_true]
      rw [silent, State.ackDatum, if_pos ⟨chain, hm⟩, if_pos hm]
      rfl
    · have asked : acknowledge s = irqAck 0 s := by
        rw [acknowledge, if_pos chain]
        split
        · rfl
        · exact absurd ‹_› hm
        · rfl
      rw [asked, State.ackDatum_of_mode hm, if_neg hm]
      rfl
  · rw [Shared.irqRequested_of_chain chain, Option.isSome_iff_exists] at hr
    obtain ⟨d, hd⟩ := hr
    have told : s.ackDatum = s.hearDatum := if_neg fun h => chain h.1
    rw [State.ackEvs, acknowledge, told, if_neg chain, if_neg chain, if_neg chain, hd]
    rfl

/-- The state in which the handler's mode is applied (R491): after the acknowledge, with PC where the handler returns
to. -/
def State.acknowledged (s : State) : State :=
  { s.taken.after s.ackEvs with pc := s.resumeAt, iff1 := false, iff2 := false, halt := false }

theorem acknowledge_of_acceptsIrq {s : State} (h : s.AcceptsIrq) :
    acknowledge { leaveHalt s.beginStep with iff1 := false, iff2 := false } = (s.ackDatum, s.acknowledged) := by
  obtain ⟨-, -, -, hr⟩ := h
  have ack := acknowledge_eq (s := { s.beginStep with pc := s.resumeAt, halt := false, iff1 := false, iff2 := false }) hr
  rw [leaveHalt_eq]
  refine ack.trans ?_
  rw [State.acknowledged, State.after_eq, State.after_eq]
  rfl

theorem State.acknowledged_im (s : State) : s.acknowledged.im = s.im := by
  rw [State.acknowledged, State.after_eq]
  rfl

theorem acceptIrq_im0 {s : State} (h : s.AcceptsIrq) (hm : s.im = .im0) :
    acceptIrq s.beginStep = acceptIm0 (BitVec.ofNat 24 s.hearDatum) s.acknowledged := by
  have datum : s.ackDatum = s.hearDatum := State.ackDatum_of_mode (by simp [hm])
  simp only [acceptIrq, acknowledge_of_acceptsIrq h, State.acknowledged_im, hm, datum]

theorem acceptIrq_im1 {s : State} (h : s.AcceptsIrq) (hm : s.im = .im1) :
    acceptIrq s.beginStep = acceptIm1 s.acknowledged := by
  simp only [acceptIrq, acknowledge_of_acceptsIrq h, State.acknowledged_im, hm]

theorem acceptIrq_im2 {s : State} (h : s.AcceptsIrq) (hm : s.im = .im2) :
    acceptIrq s.beginStep = acceptIm2 (BitVec.ofNat 24 s.hearDatum) s.acknowledged := by
  have datum : s.ackDatum = s.hearDatum := State.ackDatum_of_mode (by simp [hm])
  simp only [acceptIrq, acknowledge_of_acceptsIrq h, State.acknowledged_im, hm, datum]

/-! ### Entering a handler -/

theorem ackEvs_no_writes (s : State) (a : Word) (v : Byte) : BusEvent.memWrite a v ∉ s.ackEvs := by
  unfold State.ackEvs
  split
  · split <;> simp
  · split <;> simp

theorem maskableFrame_of_eq {evs : List BusEvent} {s t : State}
    (e : t =
      { s.taken.after evs with pc := t.pc, sp := t.sp, iff1 := false, iff2 := false, halt := false, cost := t.cost }) :
    MaskableFrame evs s t :=
  ⟨(congrArg (fun u : State => u.bus) e).trans (s.taken.after_bus evs), e⟩

theorem MaskableFrame.toShared {evs : List BusEvent} {s t : State} (h : MaskableFrame evs s t) :
    t.toShared = (s.taken.after evs).toShared :=
  (congrArg State.toShared h.2).trans rfl

/-- R491: the address pushed stands below the old SP, whatever is acknowledged before and read after the push. -/
theorem MaskableFrame.storedWord {later : List BusEvent} {s t : State}
    (h : MaskableFrame (s.ackEvs ++ s.pushEvs s.resumeAt ++ later) s t) (hl : ∀ a w, BusEvent.memWrite a w ∉ later) :
    StoredWord (s.sp - 2) s.resumeAt s t :=
  storedWord_of_push_between (s := s.taken) (ackEvs_no_writes s) hl (congrArg Shared.mem h.toShared)

theorem push16_acknowledged (s : State) :
    push16 s.acknowledged.pc s.acknowledged =
      { s.taken.after (s.ackEvs ++ s.pushEvs s.resumeAt) with
        pc := s.resumeAt
        sp := s.sp - 2
        iff1 := false
        iff2 := false
        halt := false } := by
  have sp : s.acknowledged.sp = s.sp := by
    rw [State.acknowledged, State.after_eq]
    rfl
  rw [push16_eq, sp, State.after_append]
  rfl

/-- R490 to R493: what an acceptance that enters a handler at `target` leaves. -/
theorem enterHandler_acknowledged (target : Word) (cost : Nat) (s : State) :
    MaskableFrame (s.ackEvs ++ s.pushEvs s.resumeAt) s (enterHandler target cost s.acknowledged) ∧
      (enterHandler target cost s.acknowledged).pc = target ∧
      (enterHandler target cost s.acknowledged).sp = s.sp - 2 ∧
      StoredWord (s.sp - 2) s.resumeAt s (enterHandler target cost s.acknowledged) ∧
      (enterHandler target cost s.acknowledged).cost = cost := by
  rw [enterHandler, push16_acknowledged]
  have frame := maskableFrame_of_eq (s := s) (evs := s.ackEvs ++ s.pushEvs s.resumeAt)
    (t := { s.taken.after (s.ackEvs ++ s.pushEvs s.resumeAt) with
      pc := target, sp := s.sp - 2, iff1 := false, iff2 := false, halt := false, cost := cost }) rfl
  exact ⟨frame, rfl, rfl, MaskableFrame.storedWord (later := []) ((List.append_nil _).symm ▸ frame) (by simp), rfl⟩

/-- Settles O15: after the acknowledge, if there is one, the handler at 0x0038 is entered. -/
theorem maskableAcceptanceMode1 : Obligations.MaskableAcceptanceMode1 := fun s h hm =>
  ⟨_, (step_of_acceptsIrq h).trans (congrArg Host.Outcome.next (acceptIrq_im1 h hm)),
    enterHandler_acknowledged 0x0038 13 s⟩

/-! ### Mode 0 -/

theorem datum_byte2 (v : Nat) : ((BitVec.ofNat 24 v).extractLsb' 16 8).toNat = v / 65536 % 256 := by
  rw [BitVec.extractLsb'_toNat, BitVec.toNat_ofNat, Nat.shiftRight_eq_div_pow]
  omega

theorem datum_address (v : Nat) : (BitVec.ofNat 24 v).extractLsb' 0 16 = BitVec.ofNat 16 v := by
  apply BitVec.eq_of_toNat_eq
  rw [BitVec.extractLsb'_toNat, BitVec.toNat_ofNat, BitVec.toNat_ofNat, Nat.shiftRight_zero]
  omega

/-- Bits 5:3 of a number, where they stand. -/
theorem and_restartMask (v : Nat) : v &&& 56 = v / 8 % 8 * 8 := by
  have digit : v / 8 % 8 * 8 = ((v >>> 3) % 2 ^ 3) <<< 3 := by
    rw [Nat.shiftLeft_eq, Nat.shiftRight_eq_div_pow]
    rfl
  have mask : 56 = (2 ^ 3 - 1) <<< 3 := rfl
  rw [digit, mask]
  apply Nat.eq_of_testBit_eq
  intro k
  rw [Nat.testBit_and, Nat.testBit_shiftLeft, Nat.testBit_shiftLeft, Nat.testBit_mod_two_pow, Nat.testBit_shiftRight,
    Nat.testBit_two_pow_sub_one]
  by_cases h : 3 ≤ k
  · simp [h, Bool.and_comm]
  · simp [h]

theorem datum_restart (v : Nat) : BitVec.ofNat 16 v &&& 0x0038 = BitVec.ofNat 16 (v / 8 % 8 * 8) := by
  apply BitVec.eq_of_toNat_eq
  rw [BitVec.toNat_and, BitVec.toNat_ofNat, BitVec.toNat_ofNat]
  refine (and_restartMask _).trans ?_
  omega

/-- R493: the three answers of mode 0, by bits 23:16 of the datum. -/
theorem acceptIm0_eq (v : Nat) (s : State) :
    acceptIm0 (BitVec.ofNat 24 v) s =
      if v / 65536 % 256 = 0xCD then enterHandler (BitVec.ofNat 16 v) 19 s
      else if v / 65536 % 256 = 0xC3 then { s with pc := BitVec.ofNat 16 v, cost := 12 }
      else enterHandler (BitVec.ofNat 16 (v / 8 % 8 * 8)) 13 s := by
  have opcode (b : Byte) : (BitVec.ofNat 24 v).extractLsb' 16 8 = b ↔ v / 65536 % 256 = b.toNat := by
    rw [← BitVec.toNat_inj, datum_byte2]
  simp only [acceptIm0, opcode, datum_address, datum_restart]
  rfl

/-- R493: a JP takes the acknowledge and pushes nothing. -/
theorem jump_acknowledged (target : Word) (cost : Nat) (s : State) {t : State}
    (e : t = { s.acknowledged with pc := target, cost := cost }) :
    MaskableFrame s.ackEvs s t ∧ t.pc = target ∧ t.sp = s.sp ∧ (s.HostKeepsMemory → ∀ a, t.peek a = s.peek a) ∧
      t.cost = cost := by
  subst e
  have frame := maskableFrame_of_eq (s := s) (evs := s.ackEvs)
    (t := { s.acknowledged with pc := target, cost := cost }) rfl
  refine ⟨frame, rfl, ?_, fun k a => ?_, rfl⟩
  · rw [State.acknowledged, State.after_eq]
    rfl
  · rw [Shared.peek_congr (congrArg Shared.mem frame.toShared), peek_after (s := s.taken) k,
      written_of_no_writes (ackEvs_no_writes s)]
    rfl

/-- Settles O16: after the acknowledge, the datum says whether a handler is entered, at which address, or jumped to. -/
theorem maskableAcceptanceMode0 : Obligations.MaskableAcceptanceMode0 := by
  rintro s v h hm rfl
  refine ⟨_, (step_of_acceptsIrq h).trans (congrArg Host.Outcome.next (acceptIrq_im0 h hm)), ?_⟩
  rw [acceptIm0_eq]
  split
  · exact enterHandler_acknowledged _ 19 s
  · split
    · exact jump_acknowledged _ 12 s rfl
    · exact enterHandler_acknowledged _ 13 s

/-! ### Mode 2 -/

/-- R494: the address of the table's entry. -/
theorem tableAddress_eq (i : Byte) (v : Nat) :
    wordOf i ((BitVec.ofNat 24 v).extractLsb' 0 8) = BitVec.ofNat 16 (i.toNat * 256 + v % 256) := by
  have low : ((BitVec.ofNat 24 v).extractLsb' 0 8).toNat = v % 256 := by
    rw [BitVec.extractLsb'_toNat, BitVec.toNat_ofNat, Nat.shiftRight_zero]
    omega
  rw [wordOf_eq, low]

/-- A word that two reads hear is the word that stands there, in a memory the host neither changes nor hides. -/
theorem hear16_of_plain {s : State} (k : s.PlainMemory) (a : Word) : s.hear16 a = s.peek16 a := by
  have kept : (s.after [s.readEv a]).mem = s.mem := after_mem k.1 (by simp [State.readEv])
  rw [State.hear16, State.peek16, hear_of_plain (after_plain k _), hear_of_plain k, Shared.peek_congr kept]

theorem acceptIm2_acknowledged (v : BitVec 24) (s : State) {x : State} {p : Word}
    (hp : wordOf s.i (v.extractLsb' 0 8) = p) (hx : s.taken.after (s.ackEvs ++ s.pushEvs s.resumeAt) = x) :
    acceptIm2 v s.acknowledged =
      { x.after (x.reads16 p) with
        pc := x.hear16 p
        sp := s.sp - 2
        iff1 := false
        iff2 := false
        halt := false
        cost := 19 } := by
  have base : s.acknowledged.i = s.i := by
    rw [State.acknowledged, State.after_eq]
    rfl
  rw [acceptIm2, push16_acknowledged, base, hp, hx]
  rfl

/-- Settles O17: after the acknowledge and the push, PC is the word that the two reads at the table's entry hear. -/
theorem maskableAcceptanceMode2 : Obligations.MaskableAcceptanceMode2 := by
  intro s x p h hm hp hx
  have e : acceptIrq s.beginStep = _ :=
    (acceptIrq_im2 h hm).trans (acceptIm2_acknowledged _ s ((tableAddress_eq s.i s.hearDatum).trans hp.symm) hx.symm)
  have frame : MaskableFrame (s.ackEvs ++ s.pushEvs s.resumeAt ++ x.reads16 p) s (acceptIrq s.beginStep) := by
    rw [e]
    refine maskableFrame_of_eq ?_
    rw [State.after_append, ← hx]
  refine ⟨_, step_of_acceptsIrq h, frame, congrArg State.pc e,
    fun k => (congrArg State.pc e).trans (hear16_of_plain k p), congrArg State.sp e, frame.storedWord ?_, congrArg State.cost e⟩
  simp [State.reads16, State.readEv]

end Sys2Proof.Machine

namespace Sys2Proof.Machine

/-! ### The controller's scan -/

theorem firstIeo_succ (d : Nat) (vs : List Byte) : firstIeo (d + 1) vs = (firstIeo d vs).map (· + 1) := by
  induction vs generalizing d with
  | nil => rfl
  | cons v vs ih =>
    rw [firstIeo, firstIeo]
    split
    · rfl
    · exact ih (d + 1)

theorem firstGrant_succ (d : Nat) (vs : List Byte) : firstGrant (d + 1) vs = (firstGrant d vs).map (· + 1) := by
  induction vs generalizing d with
  | nil => rfl
  | cons v vs ih =>
    rw [firstGrant, firstGrant]
    split
    · split
      · rfl
      · rfl
    · split
      · rfl
      · exact ih (d + 1)

/-- R502: the device under service is the first with IEO. -/
theorem firstIeo_eq_some_iff (vs : List Byte) (d : Nat) :
    firstIeo 0 vs = some d ↔ devIeo (vs.getD d 0) = true ∧ ∀ e, e < d → devIeo (vs.getD e 0) = false := by
  induction vs generalizing d with
  | nil => simp [firstIeo, devIeo]
  | cons v vs ih =>
    rw [firstIeo]
    cases d with
    | zero => by_cases hi : devIeo v = true <;> simp [hi, firstIeo_succ]
    | succ d =>
      rw [Nat.forall_lt_succ_left]
      by_cases hi : devIeo v = true <;> simp [hi, firstIeo_succ, ih]

/-- R502: the device granted is the first that requests with none above it that requests or holds IEO. -/
theorem firstGrant_eq_some_iff (vs : List Byte) (d : Nat) :
    firstGrant 0 vs = some d ↔
      devReq (vs.getD d 0) = true ∧
        ∀ e, e < d → devReq (vs.getD e 0) = false ∧ devIeo (vs.getD e 0) = false := by
  induction vs generalizing d with
  | nil => simp [firstGrant, devReq]
  | cons v vs ih =>
    rw [firstGrant]
    cases d with
    | zero => by_cases hi : devIeo v = true <;> by_cases hr : devReq v = true <;> simp [hi, hr, firstGrant_succ]
    | succ d =>
      rw [Nat.forall_lt_succ_left]
      by_cases hi : devIeo v = true <;> by_cases hr : devReq v = true <;> simp [hi, hr, firstGrant_succ, ih]

/-- Settles O23: a recomputation is the two scans of the chain, and writes nothing but their answers. -/
theorem recomputeGrantsTheFirstUnblockedRequest : Obligations.RecomputeGrantsTheFirstUnblockedRequest := fun h =>
  ⟨firstGrant_eq_some_iff h.intState, firstIeo_eq_some_iff h.intState, rfl⟩

/-! ### The IRQ line and state reports -/

theorem setIrqLine_of_no_chain {s : State} (e : s.nDev = 0) (level : Bool) (report : Option (Nat × Byte)) :
    setIrqLine 0 level report s = some { s with irqLine := level } := by
  simp [setIrqLine, Shared.setIrqLine, e]

theorem setIrqLine_of_other_line {line : Nat} (h : line ≠ 0) (level : Bool) (report : Option (Nat × Byte)) (s : State) :
    setIrqLine line level report s = none := by
  simp [setIrqLine, Shared.setIrqLine, h]

theorem setIrqLine_deassert (report : Option (Nat × Byte)) (s : State) :
    setIrqLine 0 false report s = some { s with irqLine := false } := by
  simp [setIrqLine, Shared.setIrqLine]

theorem setIrqLine_without_report (s : State) : setIrqLine 0 true none s = some { s with irqLine := true } := by
  simp [setIrqLine, Shared.setIrqLine]

/-- R501: with a chain, an assertion records the level and takes its report. -/
theorem setIrqLine_with_report {s : State} (e : s.nDev ≠ 0) (d : Nat) (v : Byte) :
    setIrqLine 0 true (some (d, v)) s =
      some { s with toShared := Shared.reportState d v { s.toShared with irqLine := true } } := by
  simp [setIrqLine, Shared.setIrqLine, e]

theorem Shared.reportState_of_no_device {h : Shared} {d : Nat} (e : h.nDev ≤ d) (v : Byte) : h.reportState d v = h := by
  simp only [Shared.reportState, List.getElem?_eq_none e]

theorem Shared.reportState_of_stored {h : Shared} {d : Nat} {old : Byte} (e : h.intState[d]? = some old) (v : Byte) :
    h.reportState d v = if old = v then h else { h with intState := h.intState.set d v }.recompute := by
  simp only [Shared.reportState, e]

/-- Settles O20: without a chain the setter records the level; with one, an assertion also takes its report, which
counts if it is new. -/
theorem irqLineAndStateReports : Obligations.IrqLineAndStateReports := by
  intro s level report
  refine ⟨fun e => setIrqLine_of_no_chain e level report, fun line h => setIrqLine_of_other_line h level report s,
    Shared.irqRequested_of_no_chain, fun e => ⟨⟨?_, ?_⟩, setIrqLine_deassert report s, setIrqLine_without_report s,
    fun d v => ?_⟩⟩
  · rw [Shared.irqRequested_of_chain e, Option.isSome_iff_exists]
  · rw [Shared.irqRequested_of_chain e]
    exact Shared.irqRequested_of_chain e
  · rw [setIrqLine_with_report e]
    refine ⟨fun h => ?_, fun h => ?_, fun old h new => ?_⟩
    · rw [Shared.reportState_of_no_device (h := { s.toShared with irqLine := true }) h]
    · rw [Shared.reportState_of_stored (h := { s.toShared with irqLine := true }) h, if_pos rfl]
    · rw [Shared.reportState_of_stored (h := { s.toShared with irqLine := true }) h, if_neg new]

end Sys2Proof.Machine

namespace Sys2Proof.Machine

/-! ### What a step is -/

/-- A step accepts the NMI, or the maskable interrupt, or neither (R481). -/
theorem acceptance_cases (s : State) : (s.intDefer = false ∧ s.nmiPending = true) ∨ s.AcceptsIrq ∨ s.NoAcceptance := by
  cases hd : s.intDefer with
  | true => exact .inr (.inr (.inl hd))
  | false =>
    cases hn : s.nmiPending with
    | true => exact .inl ⟨rfl, rfl⟩
    | false =>
      cases hi : s.iff1 with
      | false => exact .inr (.inr (.inr ⟨hn, .inl hi⟩))
      | true =>
        cases hr : s.irqRequested with
        | false => exact .inr (.inr (.inr ⟨hn, .inr hr⟩))
        | true => exact .inr (.inl ⟨hd, hn, hi, hr⟩)

/-- The step that accepts the maskable interrupt, in whichever mode: its frame and its cost. -/
theorem exists_step_of_acceptsIrq {s : State} (h : s.AcceptsIrq) :
    ∃ evs t, step s = .next t ∧ MaskableFrame evs s t ∧ 12 ≤ t.cost ∧ t.cost ≤ 19 := by
  cases hm : s.im with
  | im0 =>
    obtain ⟨t, e, answer⟩ := maskableAcceptanceMode0 s _ h hm rfl
    split at answer
    · obtain ⟨frame, -, -, -, hc⟩ := answer
      exact ⟨_, t, e, frame, by omega⟩
    · split at answer
      · obtain ⟨frame, -, -, -, hc⟩ := answer
        exact ⟨_, t, e, frame, by omega⟩
      · obtain ⟨frame, -, -, -, hc⟩ := answer
        exact ⟨_, t, e, frame, by omega⟩
  | im1 =>
    obtain ⟨t, e, frame, -, -, -, hc⟩ := maskableAcceptanceMode1 s h hm
    exact ⟨_, t, e, frame, by omega⟩
  | im2 =>
    obtain ⟨t, e, frame, -, -, -, -, hc⟩ := maskableAcceptanceMode2 s _ _ h hm rfl rfl
    exact ⟨_, t, e, frame, by omega⟩

theorem Interacts.fetchBytes (fmt : Format) : Interacts (fun _ => True) (fetchBytes fmt) :=
  (Interacts.fetchArgs (fun _ _ => trivial) _).comp (.fetchOpcodes (fun _ _ => trivial) _)

theorem effect_reaches_host (i : Instr) : Interacts (fun _ => True) (effect i) :=
  fun s => (effect_interacts i s).mono fun _ _ => trivial

/-- A step that accepts nothing leaves what is shared with the host as its operations do. -/
theorem step_performs {s t : State} (n : s.NoAcceptance) (e : step s = .next t) :
    ∃ evs, t.toShared = (s.beginStep.after evs).toShared := by
  cases h : s.halt with
  | true =>
    rw [step_of_halted h n] at e
    cases e
    exact ⟨[.memRead .opcode s.pc (s.hear s.pc)], rfl⟩
  | false =>
    rw [step_of_running h n] at e
    obtain ⟨evs, -, performed⟩ := ((effect_reaches_host s.beginStep.endDefer.nextInstr).comp
      (Interacts.fetchBytes s.beginStep.endDefer.nextInstr.format)).performs s.beginStep.endDefer.startInstr
    refine ⟨evs, (congrArg State.toShared (eq_effect e)).trans (performed.trans ?_)⟩
    rw [State.after_eq, State.after_eq]
    rfl

/-! ### The NMI latch -/

theorem Shared.reportState_nmiPending (d : Nat) (v : Byte) (h : Shared) :
    (h.reportState d v).nmiPending = h.nmiPending := by
  unfold Shared.reportState
  split
  · rfl
  · split
    · rfl
    · rfl

theorem Shared.setIrqLine_nmiPending {line : Nat} {level : Bool} {report : Option (Nat × Byte)} {g h : Shared}
    (e : h.setIrqLine line level report = some g) : g.nmiPending = h.nmiPending := by
  obtain ⟨-, rfl | ⟨d, v, -, -, -, rfl⟩⟩ := Shared.setIrqLine_cases e
  · rfl
  · exact Shared.reportState_nmiPending d v _

/-- R483: a setting of the NMI line never takes a latched NMI back. -/
theorem Shared.setNmiLine_nmiPending {h : Shared} (pending : h.nmiPending = true) (level : Bool) :
    (h.setNmiLine level).nmiPending = true := by
  unfold Shared.setNmiLine
  split
  · exact pending
  · exact (congrArg (· || level) pending).trans (Bool.true_or level)

theorem Shared.act_nmiPending {h : Shared} (pending : h.nmiPending = true) (x : HostAct) :
    (h.act x).nmiPending = true := by
  cases x with
  | setMemory a v => exact pending
  | setNmiLine level => exact Shared.setNmiLine_nmiPending pending level
  | setIrqLine line level report =>
    simp only [Shared.act]
    cases e : h.setIrqLine line level report with
    | none => exact pending
    | some g => exact (Shared.setIrqLine_nmiPending e).trans pending

theorem Shared.acts_nmiPending {h : Shared} (pending : h.nmiPending = true) (xs : List HostAct) :
    (xs.foldl Shared.act h).nmiPending = true := by
  induction xs generalizing h with
  | nil => exact pending
  | cons x xs ih => exact ih (Shared.act_nmiPending pending x)

theorem Shared.perform_nmiPending {h : Shared} (pending : h.nmiPending = true) (ev : BusEvent) :
    (h.perform ev).nmiPending = true := by
  refine Shared.acts_nmiPending ?_ _
  exact pending

/-- A latched NMI is still latched after operations on the host, whatever it does inside them. -/
theorem after_nmiPending {s : State} (pending : s.nmiPending = true) (evs : List BusEvent) :
    (s.after evs).nmiPending = true := by
  induction evs generalizing s with
  | nil => exact pending
  | cons ev evs ih => exact ih (s := s.perform ev) (Shared.perform_nmiPending pending ev)

/-- Operations on a host that calls no setter leave the latch as it was. -/
theorem after_nmiPending_of_keepsLines {s : State} (k : s.HostKeepsLines) (evs : List BusEvent) :
    (s.after evs).nmiPending = s.nmiPending := by
  rw [after_of_keepsLines k]

/-- R490: an acceptance of the NMI clears the latch. -/
theorem step_nmiPending_of_nmi {s t : State} (hd : s.intDefer = false) (hn : s.nmiPending = true) (k : s.HostKeepsLines)
    (e : step s = .next t) : t.nmiPending = false := by
  obtain ⟨u, accepted, -, -, frame⟩ := nmiAcceptance s hd hn
  cases accepted.symm.trans e
  have kept := after_nmiPending_of_keepsLines (s := { s.beginStep with nmiPending := false }) k (s.pushEvs s.resumeAt)
  exact (congrArg (fun u : State => u.nmiPending) frame).trans kept

/-- A step that does not accept the NMI leaves the latch as it was, for a host that calls no setter. -/
theorem step_nmiPending_of_keepsLines {s t : State} (hn : s.nmiPending = false) (k : s.HostKeepsLines)
    (e : step s = .next t) : t.nmiPending = false := by
  obtain ⟨-, pending⟩ | accepts | quiet := acceptance_cases s
  · exact absurd pending (Bool.eq_false_iff.mp hn)
  · obtain ⟨evs, u, accepted, frame, -⟩ := exists_step_of_acceptsIrq accepts
    cases accepted.symm.trans e
    exact (congrArg Shared.nmiPending frame.toShared).trans
      ((after_nmiPending_of_keepsLines (s := s.taken) k evs).trans hn)
  · obtain ⟨evs, performed⟩ := step_performs quiet e
    exact (congrArg Shared.nmiPending performed).trans
      ((after_nmiPending_of_keepsLines (s := s.beginStep) k evs).trans hn)

theorem hostReset_nmiPending {n : Nat} {s t : State} (k : s.HostKeepsLines) (e : hostReset n s = some t) :
    t.nmiPending = false := by
  rw [hostReset_eq] at e
  split at e
  · cases e
    exact after_nmiPending_of_keepsLines (s := s.cleared n) k _
  · cases e

theorem importContext_nmiPending {n : Nat} {x : Context} {s t : State} (e : importContext n x s = some t) :
    t.nmiPending = x.nmiPending := by
  unfold importContext at e
  split at e
  · cases e
    rfl
  · cases e

theorem setNmiLine_same (s : State) : setNmiLine s.nmiLine s = s := by
  simp [setNmiLine, Shared.setNmiLine]

theorem setNmiLine_rise {s : State} (low : s.nmiLine = false) :
    setNmiLine true s = { s with nmiLine := true, nmiPending := true } := by
  simp [setNmiLine, Shared.setNmiLine, low]

theorem setNmiLine_fall {s : State} (high : s.nmiLine = true) : setNmiLine false s = { s with nmiLine := false } := by
  simp [setNmiLine, Shared.setNmiLine, high]

/-- Settles O19: an operation can only latch an NMI, and only by a setter the host calls in it; an acceptance and a reset
clear the latch first. -/
theorem nmiLineIsEdgeTriggered : Obligations.NmiLineIsEdgeTriggered := by
  intro s
  refine ⟨setNmiLine_same s, setNmiLine_rise, setNmiLine_fall,
    fun pending => ⟨?_, fun t hd e => ?_, fun i t e => ?_, ?_⟩, fun line level report t e => ?_, fun _ _ => rfl,
    fun reg v t e => ?_, fun hn k t => step_nmiPending_of_keepsLines hn k, fun k n t => hostReset_nmiPending k,
    fun n x t => importContext_nmiPending⟩
  · exact Shared.setNmiLine_nmiPending pending
  · obtain ⟨evs, performed⟩ := step_performs (.inl hd) e
    exact (congrArg Shared.nmiPending performed).trans (after_nmiPending (s := s.beginStep) pending evs)
  · obtain ⟨evs, -, performed⟩ := exec_performs e
    exact (congrArg Shared.nmiPending performed).trans (after_nmiPending pending evs)
  · exact fun t hd k => step_nmiPending_of_nmi hd pending k
  · obtain ⟨g, hg, rfl⟩ := Option.map_eq_some_iff.mp e
    exact Shared.setIrqLine_nmiPending hg
  · obtain ⟨shared, -⟩ := setRegister_frame e
    exact congrArg Shared.nmiPending shared

end Sys2Proof.Machine

namespace Sys2Proof.Machine

/-! ### Costs -/

/-- A cost of the table (R561 to R565). -/
def State.CostInTable (t : State) : Prop := 4 ≤ t.cost ∧ t.cost ≤ 21

theorem costInTable_ite {c : Prop} [Decidable c] {t u : State} (ht : t.CostInTable) (hu : u.CostInTable) :
    (if c then t else u).CostInTable := by
  split
  · exact ht
  · exact hu

theorem State.charge_costInTable (s : State) {n : Nat} (h : 4 ≤ n ∧ n ≤ 21) : (s.charge n).CostInTable := h

theorem repeatIf_costInTable (again : Bool) (s : State) : (repeatIf again s).CostInTable :=
  costInTable_ite (State.charge_costInTable _ (by decide)) (State.charge_costInTable _ (by decide))

/-- R561 to R565: the cost of every instruction, row by row; a conditional one has two. -/
theorem effect_costInTable (i : Instr) (s : State) : (effect i s).CostInTable := by
  induction i with
  | unaffected x j ih => exact effect_unaffected x j ▸ ih
  | djnz e =>
    rw [effect_djnz]
    exact costInTable_ite (State.charge_costInTable _ (by decide)) (State.charge_costInTable _ (by decide))
  | jrNz | jrZ | jrNc | jrC | callCcNn | retCc =>
    exact costInTable_ite ⟨of_decide_eq_true rfl, of_decide_eq_true rfl⟩ ⟨of_decide_eq_true rfl, of_decide_eq_true rfl⟩
  | ldir | lddr | cpir | cpdr | inir | indr | otir | otdr => exact repeatIf_costInTable _ _
  | _ => exact ⟨of_decide_eq_true rfl, of_decide_eq_true rfl⟩

/-- Settles O29: the acceptances cost 11 to 19, a halted cycle 4, and an instruction what its row says. -/
theorem stepCostIsBounded : Obligations.StepCostIsBounded := by
  intro s t e
  obtain ⟨hd, hn⟩ | accepts | quiet := acceptance_cases s
  · cases (step_of_nmi hd hn).symm.trans e
    exact ⟨of_decide_eq_true rfl, of_decide_eq_true rfl⟩
  · obtain ⟨_, u, accepted, -, low, high⟩ := exists_step_of_acceptsIrq accepts
    cases accepted.symm.trans e
    omega
  · cases h : s.halt with
    | true =>
      cases (step_of_halted h quiet).symm.trans e
      exact ⟨of_decide_eq_true rfl, of_decide_eq_true rfl⟩
    | false =>
      rw [step_of_running h quiet] at e
      exact eq_effect e ▸ effect_costInTable _ _

/-! ### Contexts -/

theorem exportContext_devices (s : State) : (exportContext s).intState.take s.nDev = s.intState := List.take_left' rfl

theorem exportContext_valid {s : State} (inv : s.Inv) : (exportContext s).valid s.nDev = true := by
  have chain : s.intState.length ≤ Config.maxDaisy := inv.chain
  have padding : (exportContext s).intState.drop s.nDev = List.replicate (Config.maxDaisy - s.nDev) 0 :=
    List.drop_left' rfl
  have length : (exportContext s).intState.length = Config.maxDaisy := by
    simp [exportContext, Shared.nDev, chain]
  have service : (exportContext s).serviceDev = firstIeo 0 s.intState := inv.service
  have grant : (exportContext s).requestDev = none ∨ (exportContext s).requestDev = firstGrant 0 s.intState := inv.grant
  rw [Context.valid, exportContext_devices, padding, length]
  simpa [service, inv.chain] using grant

/-- Settles O59: what is exported is valid for its own chain, and its fields go back to where they came from. -/
theorem contextRoundTrip : Obligations.ContextRoundTrip := by
  intro s u inv
  refine ⟨fun e => ?_, fun e => ?_⟩
  · have accepted : (decide (s.nDev = u.nDev) && (exportContext s).valid u.nDev) = true := by
      rw [e, exportContext_valid inv, decide_eq_true rfl, Bool.and_self]
    rw [importContext, if_pos accepted, e, exportContext_devices]
    simp [exportContext, State.af, State.bc, State.de, State.hl]
  · rw [importContext, if_neg]
    simp [e.symm]

end Sys2Proof.Machine

namespace Sys2Proof.Machine

/-! ### The loop of execute -/

theorem loopCondition_iff (rem : Int) (s : State) :
    (decide (0 < rem) || s.intDefer || s.xyMode.isSome) = true ↔ 0 < rem ∨ s.Latched := by
  rw [Bool.or_eq_true, Bool.or_eq_true, decide_eq_true_eq, or_assoc, Option.isSome_iff_ne_none]

theorem executeLoop_of_done {rem : Int} {s : State} (used : rem ≤ 0) (clear : ¬s.Latched) (fuel : Nat) :
    executeLoop (fuel + 1) rem s = some (rem, s) := by
  rw [executeLoop, if_neg]
  rw [loopCondition_iff]
  exact fun go => go.elim (Int.not_lt.mpr used) clear

theorem executeLoop_of_step {rem : Int} {s t : State} (go : 0 < rem ∨ s.Latched) (e : step s = .next t) (fuel : Nat) :
    executeLoop (fuel + 1) rem s = executeLoop fuel (rem - t.cost) t := by
  rw [executeLoop, if_pos ((loopCondition_iff rem s).mpr go), e]

theorem runFor_succ {s t : State} (e : step s = .next t) (n : Nat) :
    runFor (n + 1) s = (runFor n t).map fun r => (t.cost + r.1, r.2) := by
  rw [runFor, e]

/-- Every number of steps can be made, and costs at least 4 T-states for each. -/
theorem exists_runFor (n : Nat) (s : State) : ∃ k t, runFor n s = some (k, t) ∧ 4 * n ≤ k := by
  induction n generalizing s with
  | zero => exact ⟨0, s, rfl, Nat.le_refl 0⟩
  | succ n ih =>
    obtain ⟨t, e⟩ := safe_step s
    obtain ⟨k, u, run, cost⟩ := ih t
    have one := (stepCostIsBounded s t e).1
    exact ⟨t.cost + k, u, by rw [runFor_succ e, run]; rfl, by omega⟩

/-- What an answer of the loop says: the run it stands for, and why it did not end before. -/
structure Answers (rem : Int) (s : State) (n k : Nat) (t : State) : Prop where
  run : runFor n s = some (k, t)
  used : rem ≤ k
  clear : ¬t.Latched
  started : 0 < rem → 0 < n
  due : ∀ m, m < n → ∃ km tm, runFor m s = some (km, tm) ∧ ((km : Int) < rem ∨ tm.Latched)

theorem answers_zero {rem : Int} {s : State} (used : rem ≤ 0) (clear : ¬s.Latched) : Answers rem s 0 0 s where
  run := rfl
  used := used
  clear := clear
  started h := absurd h (Int.not_lt.mpr used)
  due _ h := absurd h (Nat.not_lt_zero _)

/-- One more step in front of a run that answers. -/
theorem Answers.step {rem : Int} {s t u : State} {n k : Nat} (go : 0 < rem ∨ s.Latched) (e : step s = .next t)
    (a : Answers (rem - t.cost) t n k u) : Answers rem s (n + 1) (t.cost + k) u where
  run := by rw [runFor_succ e, a.run]; rfl
  used := by have := a.used; omega
  clear := a.clear
  started _ := Nat.succ_pos n
  due m h := by
    cases m with
    | zero => exact ⟨0, s, rfl, go⟩
    | succ m =>
      obtain ⟨km, tm, run, why⟩ := a.due m (Nat.lt_of_succ_lt_succ h)
      exact ⟨t.cost + km, tm, by rw [runFor_succ e, run]; rfl, why.imp_left fun h => by omega⟩

theorem executeLoop_answers {fuel : Nat} {rem r : Int} {s u : State} (e : executeLoop fuel rem s = some (r, u)) :
    ∃ n k : Nat, n < fuel ∧ r = rem - k ∧ Answers rem s n k u := by
  induction fuel generalizing rem s with
  | zero => cases e
  | succ fuel ih =>
    by_cases go : 0 < rem ∨ s.Latched
    · obtain ⟨t, step⟩ := safe_step s
      rw [executeLoop_of_step go step] at e
      obtain ⟨n, k, few, left, a⟩ := ih e
      exact ⟨n + 1, t.cost + k, Nat.succ_lt_succ few, by omega, a.step go step⟩
    · obtain ⟨used, clear⟩ := not_or.mp go
      rw [executeLoop_of_done (Int.not_lt.mp used) clear] at e
      cases e
      exact ⟨0, 0, Nat.succ_pos fuel, (Int.sub_zero r).symm, answers_zero (Int.not_lt.mp used) clear⟩

/-- A run that uses the budget and leaves no latch set ends the loop, if it did not end before. -/
theorem exists_executeLoop {n k : Nat} {rem : Int} {s t : State} (run : runFor n s = some (k, t)) (used : rem ≤ k)
    (clear : ¬t.Latched) : ∃ r u, executeLoop (n + 1) rem s = some (r, u) := by
  induction n generalizing k rem s with
  | zero =>
    cases run
    exact ⟨rem, t, executeLoop_of_done used clear 0⟩
  | succ n ih =>
    by_cases go : 0 < rem ∨ s.Latched
    · obtain ⟨v, e⟩ := safe_step s
      rw [runFor_succ e, Option.map_eq_some_iff] at run
      obtain ⟨⟨j, w⟩, run, same⟩ := run
      cases same
      rw [executeLoop_of_step go e]
      exact ih run (by push_cast at used; omega)
    · obtain ⟨done, quiet⟩ := not_or.mp go
      exact ⟨rem, s, executeLoop_of_done (Int.not_lt.mp done) quiet _⟩

theorem executeLoop_mono {fuel : Nat} {rem : Int} {s : State} {p : Int × State} (more : Nat)
    (e : executeLoop fuel rem s = some p) : executeLoop (fuel + more) rem s = some p := by
  induction fuel generalizing rem s with
  | zero => cases e
  | succ fuel ih =>
    rw [Nat.succ_add]
    by_cases go : 0 < rem ∨ s.Latched
    · obtain ⟨t, step⟩ := safe_step s
      rw [executeLoop_of_step go step] at e ⊢
      exact ih e
    · obtain ⟨used, clear⟩ := not_or.mp go
      rw [executeLoop_of_done (Int.not_lt.mp used) clear] at e ⊢
      exact e

theorem execute_eq_some_iff {fuel : Nat} {budget c : Int} {s t : State} :
    execute fuel budget s = some (c, t) ↔ executeLoop fuel budget s = some (budget - c, t) := by
  rw [execute, Option.map_eq_some_iff]
  constructor
  · rintro ⟨⟨r, u⟩, e, same⟩
    cases same
    rw [e, Int.sub_sub_self]
  · exact fun e => ⟨_, e, by rw [Int.sub_sub_self]⟩

/-! ### What leaves a latch set -/

theorem after_intDefer (s : State) (evs : List BusEvent) : (s.after evs).intDefer = s.intDefer := by
  rw [State.after_eq]

/-- In a state of the invariant an index mode comes with a deferral. -/
theorem State.Inv.intDefer_of_latched {s : State} (inv : s.Inv) (latched : s.Latched) : s.intDefer = true :=
  latched.elim id inv.shielded

/-- R550, R551: EI and the prefixes alone leave a deferral. -/
theorem step_intDefer_of_not_latches {s t : State} (e : step s = .next t) (other : ¬Latches s.beginStep.nextInstr) :
    t.intDefer = false := by
  obtain ⟨hd, hn⟩ | accepts | quiet := acceptance_cases s
  · cases (step_of_nmi hd hn).symm.trans e
    rw [acceptNmi_eq]
    exact (after_intDefer _ _).trans hd
  · obtain ⟨evs, u, accepted, ⟨-, frame⟩, -⟩ := exists_step_of_acceptsIrq accepts
    obtain ⟨hd, -⟩ := accepts
    cases accepted.symm.trans e
    exact (congrArg State.intDefer frame).trans ((after_intDefer s.taken evs).trans hd)
  · cases h : s.halt with
    | true =>
      cases (step_of_halted h quiet).symm.trans e
      rfl
    | false =>
      rw [step_of_running h quiet] at e
      have same : s.beginStep.endDefer.nextInstr = s.beginStep.nextInstr := nextInstr_congr rfl rfl rfl
      obtain ⟨-, fetched, -⟩ := fetchInstr_latches s.beginStep
      obtain ⟨notEi, notIx, notIy⟩ := (not_or.trans (and_congr_right fun _ => not_or)).mp other
      rw [same] at e
      exact (congrArg Control.intDefer (exec_control e)).trans ((controlAfter_intDefer notIx notIy notEi).trans fetched)

/-- Settles O60: `execute` is `executeLoop`, whose answers are runs (`executeLoop_answers`) and which ends at the first
state where the budget is used and no latch is set; the invariant says that a latch set is a deferral. -/
theorem executeUsesItsBudget : Obligations.ExecuteUsesItsBudget := by
  intro budget s
  refine ⟨fun used clear fuel => ?noStep, fun fuel c t e => ?answers, fun n k t run used clear => ?ends,
    fun fuel more c t e => ?moreFuel, fun never n hn => ?never, fun inv t e latched => ?latches⟩
  case noStep =>
    rw [execute_eq_some_iff, Int.sub_zero]
    exact executeLoop_of_done used clear fuel
  case answers =>
    obtain ⟨n, k, few, left, a⟩ := executeLoop_answers (execute_eq_some_iff.mp e)
    have consumed : c = k := by omega
    exact ⟨n, k, few, a.run, consumed, consumed ▸ a.used, a.clear, a.started, a.due⟩
  case ends =>
    obtain ⟨r, u, e⟩ := exists_executeLoop run used clear
    exact ⟨budget - r, u, execute_eq_some_iff.mpr (by rw [Int.sub_sub_self, e])⟩
  case moreFuel => exact execute_eq_some_iff.mpr (executeLoop_mono more (execute_eq_some_iff.mp e))
  case never =>
    obtain ⟨k, t, run, cost⟩ := exists_runFor n s
    refine ⟨k, t, run, by_contra fun clear => ?_⟩
    obtain ⟨r, u, e⟩ := exists_executeLoop run (by omega : budget ≤ k) clear
    cases (never (n + 1)).symm.trans (congrArg (Option.map _) e)
  case latches =>
    have deferral := (stepKeepsTheInvariant s t inv e).intDefer_of_latched latched
    exact by_contra fun other => Bool.eq_false_iff.mp (step_intDefer_of_not_latches e other) deferral

end Sys2Proof.Machine
